-- ==== Sys2Proof/Word.lean ====
section
/-! DEFINITION. The word types of the block (00_scope.md rule R5). -/

namespace Sys2Proof

/-- A register or memory byte (REG_WIDTH = 8, R5). -/
abbrev Byte := BitVec 8

/-- An instruction word, and the width of `pc`, `I`, `KM` and a stack entry (R5). -/
abbrev Word := BitVec 16

/-- A 4-bit field of an instruction word (R71). -/
abbrev Nibble := BitVec 4

/-- A 12-bit address field `NNN` (R71). -/
abbrev Addr12 := BitVec 12

/-- The index of a general register `V0`..`VF` (R20). -/
abbrev Reg := Fin 16

end Sys2Proof
end

