-- ==== Sys2Proof/Syntax.lean ====
section
/-! DEFINITION. The instructions: one constructor per row of spec/opcode_table.json, named by the row's pattern
(00_scope.md rule R11). A bit that the decoder ignores is kept as an operand and dropped by the meaning, so that a
word and its instruction determine each other (DESIGN CHOICE, log 26). -/

namespace Sys2Proof

/-- The instruction set (30_encoding.md rules R72, R76). -/
inductive Instr
  /-- clear the framebuffer (R181); `n2` is ignored (R78) -/
  | op00E0 (n2 : Nibble)
  /-- return from subroutine (R120); `n2` is ignored (R78) -/
  | op00EE (n2 : Nibble)
  /-- jump (R121) -/
  | op1NNN (nnn : Addr12)
  /-- call (R122) -/
  | op2NNN (nnn : Addr12)
  /-- skip if `VX = NN` (R130) -/
  | op3XNN (x : Reg) (nn : Byte)
  /-- skip if `VX != NN` (R131) -/
  | op4XNN (x : Reg) (nn : Byte)
  /-- skip if `VX = VY` (R132); `n4` is ignored (R78) -/
  | op5XY0 (x y : Reg) (n4 : Nibble)
  /-- load byte (R141) -/
  | op6XNN (x : Reg) (nn : Byte)
  /-- add byte, no flag (R142) -/
  | op7XNN (x : Reg) (nn : Byte)
  /-- copy register (R143) -/
  | op8XY0 (x y : Reg)
  /-- OR (R144) -/
  | op8XY1 (x y : Reg)
  /-- AND (R145) -/
  | op8XY2 (x y : Reg)
  /-- XOR (R146) -/
  | op8XY3 (x y : Reg)
  /-- add, `VF` = no carry (R147) -/
  | op8XY4 (x y : Reg)
  /-- `VX - VY`, `VF` = no borrow (R148) -/
  | op8XY5 (x y : Reg)
  /-- shift `VX` right (R150); `Y` is decoded, not used (R79) -/
  | op8XY6 (x y : Reg)
  /-- `VY - VX`, `VF` = no borrow (R149) -/
  | op8XY7 (x y : Reg)
  /-- shift `VX` left (R151); `Y` is decoded, not used (R79) -/
  | op8XYE (x y : Reg)
  /-- skip if `VX != VY` (R133); `n4` is ignored (R78) -/
  | op9XY0 (x y : Reg) (n4 : Nibble)
  /-- load index (R170) -/
  | opANNN (nnn : Addr12)
  /-- jump to `NNN + V0` (R123) -/
  | opBNNN (nnn : Addr12)
  /-- random byte masked (R152) -/
  | opCXNN (x : Reg) (nn : Byte)
  /-- draw sprite (R182) -/
  | opDXYN (x y : Reg) (n : Nibble)
  /-- skip if key `VX` is pressed (R192) -/
  | opEX9E (x : Reg)
  /-- skip if key `VX` is not pressed (R193) -/
  | opEXA1 (x : Reg)
  /-- read the delay timer (R195) -/
  | opFX07 (x : Reg)
  /-- wait for a key (R194) -/
  | opFX0A (x : Reg)
  /-- set the delay timer (R196) -/
  | opFX15 (x : Reg)
  /-- set the sound timer (R197) -/
  | opFX18 (x : Reg)
  /-- add register to index (R171) -/
  | opFX1E (x : Reg)
  /-- point index at a glyph (R172) -/
  | opFX29 (x : Reg)
  /-- store decimal digits (R173) -/
  | opFX33 (x : Reg)
  /-- store `V0`..`VX` (R174) -/
  | opFX55 (x : Reg)
  /-- load `V0`..`VX` (R175) -/
  | opFX65 (x : Reg)
  /-- every word of the unsupported class, carried whole (R77, R105) -/
  | unsupported (w : Word)
  deriving DecidableEq, Repr

end Sys2Proof
end

