-- ==== Sys2Proof/WellFormed.lean ====
section
/-! DEFINITION. Which instructions exist: the only check is that `unsupported` carries a word of the unsupported class
(30_encoding.md rule R77); every operand type already holds exactly the values its field can take (R73). -/

namespace Sys2Proof

/-- The unsupported class, family by family, as R77 lists it. -/
def unsupportedWord (w : Word) : Bool :=
  let family := w.extractLsb' 12 4
  let low := w.extractLsb' 0 8
  let last := w.extractLsb' 0 4
  (family == 0x0 && !([0xE0, 0xEE].contains low)) ||
  (family == 0x8 && [0x8, 0x9, 0xA, 0xB, 0xC, 0xD, 0xF].contains last) ||
  (family == 0xE && !([0x9E, 0xA1].contains low)) ||
  (family == 0xF && !([0x07, 0x0A, 0x15, 0x18, 0x1E, 0x29, 0x33, 0x55, 0x65].contains low))

/-- Every instruction is well-formed, but for `unsupported` of a word that has a meaning (R77). -/
def Instr.wellFormed : Instr → Bool
  | .op00E0 _ => true
  | .op00EE _ => true
  | .op1NNN _ => true
  | .op2NNN _ => true
  | .op3XNN _ _ => true
  | .op4XNN _ _ => true
  | .op5XY0 _ _ _ => true
  | .op6XNN _ _ => true
  | .op7XNN _ _ => true
  | .op8XY0 _ _ => true
  | .op8XY1 _ _ => true
  | .op8XY2 _ _ => true
  | .op8XY3 _ _ => true
  | .op8XY4 _ _ => true
  | .op8XY5 _ _ => true
  | .op8XY6 _ _ => true
  | .op8XY7 _ _ => true
  | .op8XYE _ _ => true
  | .op9XY0 _ _ _ => true
  | .opANNN _ => true
  | .opBNNN _ => true
  | .opCXNN _ _ => true
  | .opDXYN _ _ _ => true
  | .opEX9E _ => true
  | .opEXA1 _ => true
  | .opFX07 _ => true
  | .opFX0A _ => true
  | .opFX15 _ => true
  | .opFX18 _ => true
  | .opFX1E _ => true
  | .opFX29 _ => true
  | .opFX33 _ => true
  | .opFX55 _ => true
  | .opFX65 _ => true
  | .unsupported w => unsupportedWord w

end Sys2Proof
end

