-- ==== Sys2Proof/Decode.lean ====
section
/-! DEFINITION. The decoder and the encoder (30_encoding.md). -/

namespace Sys2Proof

/-- The fields of an instruction word (R71). -/
def n1 (w : Word) : Nibble := w.extractLsb' 12 4
/-- Second nibble (R71). -/
def n2 (w : Word) : Nibble := w.extractLsb' 8 4
/-- Third nibble (R71). -/
def n3 (w : Word) : Nibble := w.extractLsb' 4 4
/-- Lowest nibble (R71). -/
def n4 (w : Word) : Nibble := w.extractLsb' 0 4
/-- The 8-bit immediate (R71). -/
def nn (w : Word) : Byte := w.extractLsb' 0 8
/-- The 12-bit address (R71). -/
def nnn (w : Word) : Addr12 := w.extractLsb' 0 12

/-- The register that a nibble selects (R73). -/
def regOf (n : Nibble) : Reg := n.toFin

/-- The nibble that selects a register (R73, R87). -/
def nibbleOf (r : Reg) : Nibble := BitVec.ofFin r

/-- Family 0x0, keyed on the low byte (R75, R76; decision D8, log 11). -/
def decodeFamily0 (w : Word) : Instr :=
  match (nn w).toNat with
  | 0xE0 => .op00E0 (n2 w)
  | 0xEE => .op00EE (n2 w)
  | _ => .unsupported w

/-- Family 0x8, keyed on `n4` (R75, R76). -/
def decodeFamily8 (w : Word) : Instr :=
  let x := regOf (n2 w)
  let y := regOf (n3 w)
  match (n4 w).toNat with
  | 0x0 => .op8XY0 x y
  | 0x1 => .op8XY1 x y
  | 0x2 => .op8XY2 x y
  | 0x3 => .op8XY3 x y
  | 0x4 => .op8XY4 x y
  | 0x5 => .op8XY5 x y
  | 0x6 => .op8XY6 x y
  | 0x7 => .op8XY7 x y
  | 0xE => .op8XYE x y
  | _ => .unsupported w

/-- Family 0xE, keyed on the low byte (R75, R76). -/
def decodeFamilyE (w : Word) : Instr :=
  let x := regOf (n2 w)
  match (nn w).toNat with
  | 0x9E => .opEX9E x
  | 0xA1 => .opEXA1 x
  | _ => .unsupported w

/-- Family 0xF, keyed on the low byte (R75, R76). -/
def decodeFamilyF (w : Word) : Instr :=
  let x := regOf (n2 w)
  match (nn w).toNat with
  | 0x07 => .opFX07 x
  | 0x0A => .opFX0A x
  | 0x15 => .opFX15 x
  | 0x18 => .opFX18 x
  | 0x1E => .opFX1E x
  | 0x29 => .opFX29 x
  | 0x33 => .opFX33 x
  | 0x55 => .opFX55 x
  | 0x65 => .opFX65 x
  | _ => .unsupported w

/-- The dispatch matrix (R74 to R76): total on the 65536 words. -/
def decodeWord (w : Word) : Instr :=
  let x := regOf (n2 w)
  let y := regOf (n3 w)
  match (n1 w).toNat with
  | 0x0 => decodeFamily0 w
  | 0x1 => .op1NNN (nnn w)
  | 0x2 => .op2NNN (nnn w)
  | 0x3 => .op3XNN x (nn w)
  | 0x4 => .op4XNN x (nn w)
  | 0x5 => .op5XY0 x y (n4 w)
  | 0x6 => .op6XNN x (nn w)
  | 0x7 => .op7XNN x (nn w)
  | 0x8 => decodeFamily8 w
  | 0x9 => .op9XY0 x y (n4 w)
  | 0xA => .opANNN (nnn w)
  | 0xB => .opBNNN (nnn w)
  | 0xC => .opCXNN x (nn w)
  | 0xD => .opDXYN x y (n4 w)
  | 0xE => decodeFamilyE w
  | _ => decodeFamilyF w

/-- The word of two bytes in memory order: the first byte is the high one (R53, R70). -/
def wordOfBytes (hi lo : Byte) : Word := hi ++ lo

/-- Why a byte list holds no instruction. -/
inductive DecodeError
  /-- fewer than the two bytes that every instruction has (R70) -/
  | truncated
  deriving DecidableEq, Repr

/-- Reads one instruction, two bytes long, from a byte list and answers the rest of the list (R70). -/
def decode : List Byte → Except DecodeError (Instr × List Byte)
  | hi :: lo :: rest => .ok (decodeWord (wordOfBytes hi lo), rest)
  | [_] => .error .truncated
  | [] => .error .truncated

/-- The word of four hex digits, high digit first (R87). -/
def wordOfNibbles (a b c d : Nibble) : Word := a ++ b ++ c ++ d

/-- The word of a family nibble, a register and a byte: layouts `XNN` and `XK` (R72, R87). -/
def wordXNN (family : Nibble) (x : Reg) (low : Byte) : Word := family ++ nibbleOf x ++ low

/-- The word of a family nibble and an address: layout `A` (R72, R87). -/
def wordNNN (family : Nibble) (a : Addr12) : Word := family ++ a

/-- The word of a family nibble, two registers and a nibble: layout `XYN` (R72, R87). -/
def wordXYN (family : Nibble) (x y : Reg) (n : Nibble) : Word := wordOfNibbles family (nibbleOf x) (nibbleOf y) n

/-- The word of an instruction, by its pattern (R87). -/
def encode : Instr → Word
  | .op00E0 n2 => wordOfNibbles 0x0 n2 0xE 0x0
  | .op00EE n2 => wordOfNibbles 0x0 n2 0xE 0xE
  | .op1NNN nnn => wordNNN 0x1 nnn
  | .op2NNN nnn => wordNNN 0x2 nnn
  | .op3XNN x nn => wordXNN 0x3 x nn
  | .op4XNN x nn => wordXNN 0x4 x nn
  | .op5XY0 x y n4 => wordXYN 0x5 x y n4
  | .op6XNN x nn => wordXNN 0x6 x nn
  | .op7XNN x nn => wordXNN 0x7 x nn
  | .op8XY0 x y => wordXYN 0x8 x y 0x0
  | .op8XY1 x y => wordXYN 0x8 x y 0x1
  | .op8XY2 x y => wordXYN 0x8 x y 0x2
  | .op8XY3 x y => wordXYN 0x8 x y 0x3
  | .op8XY4 x y => wordXYN 0x8 x y 0x4
  | .op8XY5 x y => wordXYN 0x8 x y 0x5
  | .op8XY6 x y => wordXYN 0x8 x y 0x6
  | .op8XY7 x y => wordXYN 0x8 x y 0x7
  | .op8XYE x y => wordXYN 0x8 x y 0xE
  | .op9XY0 x y n4 => wordXYN 0x9 x y n4
  | .opANNN nnn => wordNNN 0xA nnn
  | .opBNNN nnn => wordNNN 0xB nnn
  | .opCXNN x nn => wordXNN 0xC x nn
  | .opDXYN x y n => wordXYN 0xD x y n
  | .opEX9E x => wordXNN 0xE x 0x9E
  | .opEXA1 x => wordXNN 0xE x 0xA1
  | .opFX07 x => wordXNN 0xF x 0x07
  | .opFX0A x => wordXNN 0xF x 0x0A
  | .opFX15 x => wordXNN 0xF x 0x15
  | .opFX18 x => wordXNN 0xF x 0x18
  | .opFX1E x => wordXNN 0xF x 0x1E
  | .opFX29 x => wordXNN 0xF x 0x29
  | .opFX33 x => wordXNN 0xF x 0x33
  | .opFX55 x => wordXNN 0xF x 0x55
  | .opFX65 x => wordXNN 0xF x 0x65
  | .unsupported w => w

/-- The two bytes of a word, high byte first (R53, R87). -/
def bytesOfWord (w : Word) : List Byte := [w.extractLsb' 8 8, w.extractLsb' 0 8]

/-- The bytes of an instruction in memory order (R87). -/
def encodeBytes (i : Instr) : List Byte := bytesOfWord (encode i)

/-- A row of spec/opcode_table.json. -/
structure OpcodeRow where
  mnemonic : String
  mask : Word
  pattern : Word
  deriving DecidableEq, Repr

/-- The rows of spec/opcode_table.json that fix bits: families 0x0 to 0x7. -/
def opcodeRowsLow : List OpcodeRow := [
  ⟨"00E0", 0xF0FF, 0x00E0⟩,
  ⟨"00EE", 0xF0FF, 0x00EE⟩,
  ⟨"1NNN", 0xF000, 0x1000⟩,
  ⟨"2NNN", 0xF000, 0x2000⟩,
  ⟨"3XNN", 0xF000, 0x3000⟩,
  ⟨"4XNN", 0xF000, 0x4000⟩,
  ⟨"5XY0", 0xF000, 0x5000⟩,
  ⟨"6XNN", 0xF000, 0x6000⟩,
  ⟨"7XNN", 0xF000, 0x7000⟩]

/-- Family 0x8. -/
def opcodeRowsAlu : List OpcodeRow := [
  ⟨"8XY0", 0xF00F, 0x8000⟩,
  ⟨"8XY1", 0xF00F, 0x8001⟩,
  ⟨"8XY2", 0xF00F, 0x8002⟩,
  ⟨"8XY3", 0xF00F, 0x8003⟩,
  ⟨"8XY4", 0xF00F, 0x8004⟩,
  ⟨"8XY5", 0xF00F, 0x8005⟩,
  ⟨"8XY6", 0xF00F, 0x8006⟩,
  ⟨"8XY7", 0xF00F, 0x8007⟩,
  ⟨"8XYE", 0xF00F, 0x800E⟩]

/-- Families 0x9 to 0xF. -/
def opcodeRowsHigh : List OpcodeRow := [
  ⟨"9XY0", 0xF000, 0x9000⟩,
  ⟨"ANNN", 0xF000, 0xA000⟩,
  ⟨"BNNN", 0xF000, 0xB000⟩,
  ⟨"CXNN", 0xF000, 0xC000⟩,
  ⟨"DXYN", 0xF000, 0xD000⟩,
  ⟨"EX9E", 0xF0FF, 0xE09E⟩,
  ⟨"EXA1", 0xF0FF, 0xE0A1⟩,
  ⟨"FX07", 0xF0FF, 0xF007⟩,
  ⟨"FX0A", 0xF0FF, 0xF00A⟩,
  ⟨"FX15", 0xF0FF, 0xF015⟩,
  ⟨"FX18", 0xF0FF, 0xF018⟩,
  ⟨"FX1E", 0xF0FF, 0xF01E⟩,
  ⟨"FX29", 0xF0FF, 0xF029⟩,
  ⟨"FX33", 0xF0FF, 0xF033⟩,
  ⟨"FX55", 0xF0FF, 0xF055⟩,
  ⟨"FX65", 0xF0FF, 0xF065⟩]

/-- The opcode table without its fallback row UNSUPPORTED. -/
def opcodeRows : List OpcodeRow := opcodeRowsLow ++ opcodeRowsAlu ++ opcodeRowsHigh

/-- A word matches a row when it has the row's fixed bits (spec/opcode_table.json). -/
def OpcodeRow.fits (r : OpcodeRow) (w : Word) : Bool := (w &&& r.mask) == r.pattern

/-- The mnemonic of an instruction in spec/opcode_table.json. -/
def Instr.mnemonic : Instr → String
  | .op00E0 _ => "00E0"
  | .op00EE _ => "00EE"
  | .op1NNN _ => "1NNN"
  | .op2NNN _ => "2NNN"
  | .op3XNN _ _ => "3XNN"
  | .op4XNN _ _ => "4XNN"
  | .op5XY0 _ _ _ => "5XY0"
  | .op6XNN _ _ => "6XNN"
  | .op7XNN _ _ => "7XNN"
  | .op8XY0 _ _ => "8XY0"
  | .op8XY1 _ _ => "8XY1"
  | .op8XY2 _ _ => "8XY2"
  | .op8XY3 _ _ => "8XY3"
  | .op8XY4 _ _ => "8XY4"
  | .op8XY5 _ _ => "8XY5"
  | .op8XY6 _ _ => "8XY6"
  | .op8XY7 _ _ => "8XY7"
  | .op8XYE _ _ => "8XYE"
  | .op9XY0 _ _ _ => "9XY0"
  | .opANNN _ => "ANNN"
  | .opBNNN _ => "BNNN"
  | .opCXNN _ _ => "CXNN"
  | .opDXYN _ _ _ => "DXYN"
  | .opEX9E _ => "EX9E"
  | .opEXA1 _ => "EXA1"
  | .opFX07 _ => "FX07"
  | .opFX0A _ => "FX0A"
  | .opFX15 _ => "FX15"
  | .opFX18 _ => "FX18"
  | .opFX1E _ => "FX1E"
  | .opFX29 _ => "FX29"
  | .opFX33 _ => "FX33"
  | .opFX55 _ => "FX55"
  | .opFX65 _ => "FX65"
  | .unsupported _ => "UNSUPPORTED"

/-- The word that spec/opcode_table.json's numbering gives to `w`: bit 0 is the least significant bit of the word, and
the bits from `nbits` on are zero. -/
def tableWord (nbits w : Nat) : Word := BitVec.ofNat 16 (w % 2 ^ nbits)

/-- What the decoder reads from a word of spec/opcode_table.json laid out in memory order. -/
def decodeTableWord (nbits w : Nat) : Option Instr :=
  match decode (bytesOfWord (tableWord nbits w)) with
  | .ok (i, _) => some i
  | .error _ => none

end Sys2Proof
end

