-- ==== Sys2Proof/Config.lean ====
section
/-! DEFINITION. What an implementation fixes, and the one free value (00_scope.md rule R5, 92_eei_decisions.md). -/

namespace Sys2Proof

/-- The open parameter ADDR_OOB: an address of 0x1000 or more wraps or faults (R51, decision D3). -/
inductive AddrOob
  | wrap
  | fault
  deriving DecidableEq, Repr

/-- The open parameter STACK_UNDERFLOW: the slot that a pop at `sp = 0` takes (R125, decision D7). -/
inductive StackUnderflow
  | wrapTo15
  | holdAt0
  deriving DecidableEq, Repr

/-- The open parameters of the block (R33); no instruction and no host transaction changes them. -/
structure Params where
  addrOob : AddrOob
  stackUnderflow : StackUnderflow
  deriving DecidableEq, Repr

namespace Config

/-- The spec's default values of the open parameters (R5; DESIGN CHOICE, log 1). -/
def defaultParams : Params := { addrOob := .wrap, stackUnderflow := .wrapTo15 }

/-- MEM_SIZE (R5). -/
abbrev memSize : Nat := 4096

/-- FONT_BASE (R5). -/
abbrev fontBase : Nat := 0x050

/-- FONT_GLYPH_BYTES for 16 glyphs (R5): the length of FONT_DATA. -/
abbrev fontBytes : Nat := 80

/-- PROG_BASE: the reset `pc` and the ROM's load address (R5). -/
abbrev progBase : Nat := 0x200

/-- ROM_MAX (R5, R232). -/
abbrev romMax : Nat := 2048

/-- The default FONT_DATA, five rows for each glyph 0 to F (93_implementation_defined.md GK1; PRESUMED, log 2). -/
def defaultFont : Vector Byte fontBytes :=
  #v[0xF0, 0x90, 0x90, 0x90, 0xF0,  0x20, 0x60, 0x20, 0x20, 0x70,
     0xF0, 0x10, 0xF0, 0x80, 0xF0,  0xF0, 0x10, 0xF0, 0x10, 0xF0,
     0x90, 0x90, 0xF0, 0x10, 0x10,  0xF0, 0x80, 0xF0, 0x10, 0xF0,
     0xF0, 0x80, 0xF0, 0x90, 0xF0,  0xF0, 0x10, 0x20, 0x40, 0x40,
     0xF0, 0x90, 0xF0, 0x90, 0xF0,  0xF0, 0x90, 0xF0, 0x10, 0xF0,
     0xF0, 0x90, 0xF0, 0x90, 0x90,  0xE0, 0x90, 0xE0, 0x90, 0xE0,
     0xF0, 0x80, 0x80, 0x80, 0xF0,  0xE0, 0x90, 0x90, 0x90, 0xE0,
     0xF0, 0x80, 0xF0, 0x80, 0xF0,  0xF0, 0x80, 0xF0, 0x80, 0x80]

/-- A FONT_DATA of the open parameter: any 80 bytes whose first one is 0xF0 (R5, decision D15). -/
abbrev FontData : Type := { font : Vector Byte fontBytes // font[0] = 0xF0 }

/-- The default font as a FONT_DATA: GK1's first byte is 0xF0, the one the source implies (R5, decision D15). -/
def defaultFontData : FontData := ⟨defaultFont, by decide⟩

/-- The random byte of the n-th draw that the host left open: any value (R152, decision D16; DESIGN CHOICE, log 3). -/
opaque randomByte : Nat → Byte

end Config
end Sys2Proof
end

