-- ==== Sys2Proof/Machine/State.lean ====
section
/-! DEFINITION. The state of the block (10_state.md), plain data, and its value after reset. -/

namespace Sys2Proof.Machine

/-- The keyboard policy `KP` (R28). -/
inductive KeyPolicy
  | autoClear
  | persistent
  deriving DecidableEq, Repr

/-- The three event kinds a cycle can emit (R110). -/
inductive Event
  | redraw
  | beep
  | cycle
  deriving DecidableEq, Repr

/-- Why a cycle has no successor state. -/
inductive Fault
  /-- R211, ADDRESS_OUT_OF_RANGE: raised by a fetch, `FX33`, `FX55` or `FX65` whose access at `address` is 0x1000 or
  more under ADDR_OOB = FAULT; `pc` is the address of the instruction. Safe: the block would wrap and go on (D3). -/
  | addressOutOfRange (address : Nat) (pc : Word)
  deriving DecidableEq, Repr

/-- Why a step has no meaning. -/
inductive Refusal
  /-- Raised only by an arm of `exec` for an instruction without a meaning; no arm raises it. Safe. -/
  | notModelled (mnemonic : String)
  deriving DecidableEq, Repr

/-- The memory array (R31): the bytes that differ from their reset contents, in rising order of address. -/
abbrev Memory := List Host.Cell

/-- The framebuffer (R30): 32 rows of 64 pixels, row 0 first, column 0 first (R180). -/
abbrev Framebuffer := Vector (Vector Bool 64) 32

/-- Every piece of state of 10_state.md, then the model's own fields. -/
structure State where
  /-- `V0`..`VF` (R20) -/
  v : Vector Byte 16
  /-- the program counter (R22) -/
  pc : Word
  /-- the index register (R23) -/
  I : Word
  /-- the stack pointer: the next free slot (R24) -/
  sp : Fin 16
  /-- the return stack (R29) -/
  stack : Vector Word 16
  /-- the delay timer (R25) -/
  DT : Byte
  /-- the sound timer (R26) -/
  ST : Byte
  /-- the keyboard mask (R27) -/
  KM : Word
  /-- the keyboard policy (R28) -/
  KP : KeyPolicy
  /-- the framebuffer (R30) -/
  fb : Framebuffer
  /-- the memory array (R31) -/
  mem : Memory
  /-- the implementation parameters (R5, R33; the model's own field, log 1) -/
  params : Params
  /-- the byte `r` of the coming `step(r)`, if the host named it (R101, R218; the model's own field, log 3) -/
  rnd : Option Byte
  /-- how many random bytes were drawn (the model's own field, log 3) -/
  draws : Nat
  /-- the event list of the last cycle (R110; the model's own field, log 4) -/
  events : List Event
  deriving DecidableEq, Repr

/-- The state after initialisation (R40, R230). -/
def State.reset : State where
  v := Vector.replicate 16 0
  pc := BitVec.ofNat 16 Config.progBase
  I := 0
  sp := 0
  stack := Vector.replicate 16 0
  DT := 0
  ST := 0
  KM := 0
  KP := .autoClear
  fb := Vector.replicate 32 (Vector.replicate 64 false)
  mem := []
  params := Config.defaultParams
  rnd := none
  draws := 0
  events := []

end Sys2Proof.Machine
end

