-- ==== Sys2Proof/Machine/Ops.lean ====
section
/-! DEFINITION. The named operations over memory, registers, the stack, the framebuffer and the event list.
The block raises no exception and has no return from one (R210, R212, R213); the one outcome without a successor state
is R211's, and `maddr` is the one place that gives it. -/

namespace Sys2Proof.Machine

/-! ### Registers and events -/

/-- Reads `x[r]` (R7, R20). -/
def State.reg (s : State) (r : Reg) : Byte := s.v[r.val]

/-- `x[r] <- b` (R7, R20). -/
def State.setReg (s : State) (r : Reg) (b : Byte) : State := { s with v := s.v.set r.val b }

/-- `pc <- a` (R7, R22). -/
def State.setPc (s : State) (a : Word) : State := { s with pc := a }

/-- `I <- a` (R7, R23). -/
def State.setI (s : State) (a : Word) : State := { s with I := a }

/-- `DT <- b` (R7, R25). -/
def State.setDT (s : State) (b : Byte) : State := { s with DT := b }

/-- `ST <- b` (R7, R26). -/
def State.setST (s : State) (b : Byte) : State := { s with ST := b }

/-- `KM <- m` (R7, R27). -/
def State.setKM (s : State) (m : Word) : State := { s with KM := m }

/-- Replaces the framebuffer (R30). -/
def State.setFb (s : State) (fb : Framebuffer) : State := { s with fb := fb }

/-- Replaces the memory array (R31). -/
def State.setMem (s : State) (m : Memory) : State := { s with mem := m }

/-- `emit e` appends to the cycle's event list (R7, R110). -/
def State.emit (s : State) (e : Event) : State := { s with events := s.events ++ [e] }

/-- Writes registers in the order of the list. -/
def State.setRegs (s : State) : List (Reg × Byte) → State
  | [] => s
  | (r, b) :: rest => (s.setReg r b).setRegs rest

/-- `V0`, ..., `VX`, in that order (R174, R175). -/
def regsUpTo (x : Reg) : List Reg := (List.finRange 16).take (x.val + 1)

/-! ### The memory array -/

/-- The byte of FONT_DATA at an address, 0 outside 0x050..0x09F (R40, R58). -/
def fontByte (font : Vector Byte Config.fontBytes) (a : Nat) : Byte :=
  if h : Config.fontBase ≤ a ∧ a < Config.fontBase + Config.fontBytes then font[a - Config.fontBase] else 0

/-- What an address that is not listed reads as: its reset contents under the default font (R40, R58; log 2). -/
def Memory.background (a : Nat) : Byte := fontByte Config.defaultFont a

/-- The canonical form: addresses rise strictly and lie in the array, and no listed byte equals its background. -/
abbrev Memory.wf (m : Memory) : Prop :=
  m.Pairwise (fun c d => c.1 < d.1) ∧ ∀ c ∈ m, c.1 < Config.memSize ∧ c.2 ≠ Memory.background c.1

/-- `mem[a]` (R52). -/
def Memory.read (m : Memory) (a : Nat) : Byte :=
  match m with
  | [] => Memory.background a
  | (b, w) :: rest => if a = b then w else Memory.read rest a

/-- `mem[a] <- v` (R52), in canonical form. -/
def Memory.write (m : Memory) (a : Nat) (v : Byte) : Memory :=
  match m with
  | [] => if v = Memory.background a then [] else [(a, v)]
  | (b, w) :: rest =>
    if a < b then (if v = Memory.background a then (b, w) :: rest else (a, v) :: (b, w) :: rest)
    else if a = b then (if v = Memory.background a then rest else (a, v) :: rest)
    else (b, w) :: Memory.write rest a v

/-- Bytes stored in the order of the list. -/
def Memory.writeAll (m : Memory) : List (Nat × Byte) → Memory
  | [] => m
  | (a, v) :: rest => (m.write a v).writeAll rest

/-- `a mod 4096`, the wrap of the 12-bit address bus (R51). -/
def wrapAddr (a : Nat) : Nat := a % Config.memSize

/-- `maddr(a)`: the address of one access, or R211's fault with the instruction's own address `pcI` (R51). -/
def maddr (mode : AddrOob) (pcI : Word) (a : Nat) : Except Fault Nat :=
  if a < Config.memSize then .ok a
  else match mode with
    | .wrap => .ok (wrapAddr a)
    | .fault => .error (.addressOutOfRange a pcI)

/-- `MemRead(a, 1)` (R52) by the instruction at `pcI`. -/
def memRead (pcI : Word) (s : State) (a : Nat) : Except Fault Byte :=
  match maddr s.params.addrOob pcI a with
  | .ok p => .ok (s.mem.read p)
  | .error f => .error f

/-- `MemWrite(a, 1, v)` (R52) by the instruction at `pcI`. -/
def memWrite (pcI : Word) (s : State) (a : Nat) (v : Byte) : Except Fault State :=
  match maddr s.params.addrOob pcI a with
  | .ok p => .ok (s.setMem (s.mem.write p v))
  | .error f => .error f

/-- Reads in the order of the list; the first address out of range is the one that faults (R211). -/
def memReadAll (pcI : Word) (s : State) : List Nat → Except Fault (List Byte)
  | [] => .ok []
  | a :: rest =>
    match memRead pcI s a with
    | .error f => .error f
    | .ok b =>
      match memReadAll pcI s rest with
      | .error f => .error f
      | .ok bs => .ok (b :: bs)

/-- Writes in the order of the list; a fault keeps none of the writes, since it carries no state (R211). -/
def memWriteAll (pcI : Word) (s : State) : List (Nat × Byte) → Except Fault State
  | [] => .ok s
  | (a, v) :: rest =>
    match memWrite pcI s a v with
    | .error f => .error f
    | .ok s' => memWriteAll pcI s' rest

/-- The address of the executing instruction: `pc` already points past it (R22, R103). -/
def State.instrPc (s : State) : Word := s.pc - 2

/-- The outcome of an instruction from the outcome of its accesses (R211). -/
def outcomeOf : Except Fault State → Host.Outcome State Fault Refusal
  | .ok s => .next s
  | .error f => .fault f

/-! ### The stack controller -/

/-- `push(a)` (R124). -/
def State.push (s : State) (a : Word) : State := { s with stack := s.stack.set s.sp.val a, sp := s.sp + 1 }

/-- The slot that a pop takes (R125; log 8). -/
def popSlot (mode : StackUnderflow) (sp : Fin 16) : Fin 16 :=
  if sp ≠ 0 then sp - 1
  else match mode with
    | .wrapTo15 => 15
    | .holdAt0 => 0

/-- The value that `pop()` returns (R125). -/
def State.popValue (s : State) : Word := s.stack[(popSlot s.params.stackUnderflow s.sp).val]

/-- What `pop()` does to the state (R125): the entry itself stays. -/
def State.popped (s : State) : State := { s with sp := popSlot s.params.stackUnderflow s.sp }

/-! ### The framebuffer -/

/-- `fb[x][y]` (R30). -/
def Framebuffer.pixel (fb : Framebuffer) (x : Fin 64) (y : Fin 32) : Bool := fb[y.val][x.val]

/-- `fb[x][y] <- b` (R30). -/
def Framebuffer.setPixel (fb : Framebuffer) (x : Fin 64) (y : Fin 32) (b : Bool) : Framebuffer :=
  fb.set y.val (fb[y.val].set x.val b)

/-- Every pixel false (R181). -/
def Framebuffer.clear : Framebuffer := Vector.replicate 32 (Vector.replicate 64 false)

/-- XORs one lit sprite bit into a pixel and notes a collision (R182, R183). -/
def drawPixel (x : Fin 64) (y : Fin 32) (d : Framebuffer × Bool) : Framebuffer × Bool :=
  (d.1.setPixel x y (!d.1.pixel x y), d.2 || d.1.pixel x y)

/-- The bit of sprite row `b` for column `c`: bit `7 - c` (R185). -/
def spriteBit (b : Byte) (c : Nat) : Bool := b.getLsbD (7 - c)

/-- R182's column loop: `n` columns from column `c` on, stopped at the right edge (R184). -/
def drawCols (b : Byte) (x0 : Nat) (y : Fin 32) : (n c : Nat) → Framebuffer × Bool → Framebuffer × Bool
  | 0, _, d => d
  | n + 1, c, d =>
    if h : x0 + c < 64 then
      drawCols b x0 y n (c + 1) (if spriteBit b c then drawPixel ⟨x0 + c, h⟩ y d else d)
    else d

/-- R182's row loop: `n` rows from row `r` on, stopped at the bottom edge (R184). -/
def drawRows (row : Nat → Byte) (x0 y0 : Nat) : (n r : Nat) → Framebuffer × Bool → Framebuffer × Bool
  | 0, _, d => d
  | n + 1, r, d =>
    if h : y0 + r < 32 then
      drawRows row x0 y0 n (r + 1) (drawCols (row r) x0 ⟨y0 + r, h⟩ 8 0 d)
    else d

/-- Row `r` of the sprite at `I`: its address always wraps modulo 4096 (R182, C7). -/
def spriteRow (s : State) (r : Nat) : Byte := s.mem.read (wrapAddr (s.I.toNat + r))

/-- The sprite draw of R182: the new framebuffer and the collision detector's output. -/
def drawSprite (s : State) (x0 y0 rows : Nat) : Framebuffer × Bool :=
  drawRows (spriteRow s) x0 y0 (min rows 16) 0 (s.fb, false)

/-! ### The random source -/

/-- `draw RND` (R7, R152): the host's byte for this step, else a free value (log 3). -/
def State.drawn (s : State) : Byte :=
  match s.rnd with
  | some r => r
  | none => Config.randomByte s.draws

/-- One draw was made. -/
def State.countDraw (s : State) : State := { s with draws := s.draws + 1 }

end Sys2Proof.Machine
end

