-- ==== Sys2Proof/Machine/Cycle.lean ====
section
/-! DEFINITION. The parts of a cycle around execute (40_cycle.md). -/

namespace Sys2Proof.Machine

/-- The fetched word: two bytes at `pc` and `pc + 1`, high byte first (R53, R55, R102). -/
def fetch (s : State) : Except Fault Word :=
  match memRead s.pc s s.pc.toNat with
  | .error f => .error f
  | .ok hi =>
    match memRead s.pc s (s.pc.toNat + 1) with
    | .error f => .error f
    | .ok lo => .ok (wordOfBytes hi lo)

/-- The event list starts empty and `pc` advances by 2 modulo 2^16 before dispatch (R101, R103). -/
def beginCycle (s : State) : State := { s with pc := s.pc + 2, events := [] }

/-- A timer's decrement while nonzero (R106). -/
def tickDown (t : Byte) : Byte := if t = 0 then 0 else t - 1

/-- `tick()`: both timers, and BEEP exactly when `ST` was 1 (R106, R107; log 22). -/
def tick (s : State) : State :=
  let t := (s.setDT (tickDown s.DT)).setST (tickDown s.ST)
  if s.ST = 1 then t.emit .beep else t

/-- The end of a cycle: tick, then CYCLE (R101, R106, R109); the step's random byte is gone (log 3). -/
def endCycle (s : State) : State := { (tick s).emit .cycle with rnd := none }

/-- Stores a word where the next fetch reads it (R53, R55). -/
def placeWord (s : State) (w : Word) : State :=
  s.setMem (s.mem.writeAll ([wrapAddr s.pc.toNat, wrapAddr (s.pc.toNat + 1)].zip (bytesOfWord w)))

end Sys2Proof.Machine
end

