-- ==== Sys2Proof/Machine/Flags.lean ====
section
/-! DEFINITION. Every flag computation, and the one order in which a flag is written. -/

namespace Sys2Proof.Machine

/-- The index of `VF`, the flag register (R21). -/
def regF : Reg := 15

/-- A flag value. -/
def flagOf (b : Bool) : Byte := if b then 1 else 0

/-- "No carry": 1 if the unbounded sum is at most 0xFF (R147). -/
def noCarry (a b : Byte) : Byte := flagOf (decide (a.toNat + b.toNat ≤ 0xFF))

/-- "No borrow": 1 if `a >= b` (R148, R149). -/
def noBorrow (a b : Byte) : Byte := flagOf (decide (b.toNat ≤ a.toNat))

/-- The bit a right shift moves out (R150). -/
def lowBit (a : Byte) : Byte := flagOf (a.getLsbD 0)

/-- The bit a left shift moves out (R151). -/
def highBit (a : Byte) : Byte := flagOf (a.getLsbD 7)

/-- 1 if the unwrapped index sum exceeds 0xFFF (R171; its 0 is log 12). -/
def indexOverflow (i : Word) (a : Byte) : Byte := flagOf (decide (0xFFF < i.toNat + a.toNat))

/-- The nominal result first, the flag last, so that the flag wins when `X = 0xF` (R21). -/
def State.setRegFlag (s : State) (x : Reg) (result flag : Byte) : State := (s.setReg x result).setReg regF flag

end Sys2Proof.Machine
end

