-- ==== Sys2Proof/Machine/Operands.lean ====
section
/-! DEFINITION. Every operand form (R73): a register operand is `State.reg` (Ops.lean), an immediate byte is itself, and
the forms below. -/

namespace Sys2Proof.Machine

/-- `zext_16(NNN)` (R7, R73). -/
def zextAddr (a : Addr12) : Word := a.setWidth 16

/-- `zext_16` of a register value (R7). -/
def zextByte (b : Byte) : Word := b.setWidth 16

/-- The key test `pressed(v)` (R190; log 13). -/
def pressed (km : Word) (v : Byte) : Bool := decide (v.toNat < 16) && km.getLsbD v.toNat

/-- The lowest `k` with `KM[k] = 1` (R194; log 15); 0 when there is none, a case `FX0A` never uses. -/
def lowestKey (km : Word) : Byte := BitVec.ofNat 8 (((List.range 16).find? (fun k => km.getLsbD k)).getD 0)

/-- `query_clear()` (R191; log 14). -/
def State.queryClear (s : State) : State :=
  match s.KP with
  | .autoClear => s.setKM 0
  | .persistent => s

/-- A skip adds 2 to `pc` modulo 2^16 when its condition holds (R130 to R133, R192, R193). -/
def State.skipIf (s : State) (c : Bool) : State := if c then s.setPc (s.pc + 2) else s

/-- The decimal digits of a byte, hundreds first, at `I`, `I + 1`, `I + 2` (R173; log 17). -/
def digitStores (base : Nat) (v : Byte) : List (Nat × Byte) :=
  [(base, BitVec.ofNat 8 (v.toNat / 100)), (base + 1, BitVec.ofNat 8 (v.toNat / 10 % 10)),
    (base + 2, BitVec.ofNat 8 (v.toNat % 10))]

/-- The stores of `FX55`: `V<k>` at `I + k` for `k = 0` to `X` (R174). -/
def registerStores (s : State) (x : Reg) : List (Nat × Byte) :=
  (regsUpTo x).map fun k => (s.I.toNat + k.val, s.reg k)

/-- The addresses `FX65` reads: `I + k` for `k = 0` to `X` (R175). -/
def registerLoads (s : State) (x : Reg) : List Nat := (regsUpTo x).map fun k => s.I.toNat + k.val

/-- The glyph address `0x50 + VX * 5` (R172; log 25). -/
def glyphAddr (v : Byte) : Word := BitVec.ofNat 16 (Config.fontBase + v.toNat * 5)

end Sys2Proof.Machine
end

