-- ==== Sys2Proof/Machine/Alu.lean ====
section
/-! DEFINITION. Register loads, arithmetic and logic (43_alu.md). Results wrap modulo 256 (R140). -/

namespace Sys2Proof.Machine

/-- `6XNN`: `VX = NN` (R141). -/
def exec6XNN (x : Reg) (nn : Byte) (s : State) : Host.Outcome State Fault Refusal := .next (s.setReg x nn)

/-- `7XNN`: `VX += NN`, no flag (R142). -/
def exec7XNN (x : Reg) (nn : Byte) (s : State) : Host.Outcome State Fault Refusal :=
  .next (s.setReg x (s.reg x + nn))

/-- `8XY0`: `VX = VY` (R143). -/
def exec8XY0 (x y : Reg) (s : State) : Host.Outcome State Fault Refusal := .next (s.setReg x (s.reg y))

/-- `8XY1`: OR (R144; `VF` unchanged: log 23). -/
def exec8XY1 (x y : Reg) (s : State) : Host.Outcome State Fault Refusal :=
  .next (s.setReg x (s.reg x ||| s.reg y))

/-- `8XY2`: AND (R145; `VF` unchanged: log 23). -/
def exec8XY2 (x y : Reg) (s : State) : Host.Outcome State Fault Refusal :=
  .next (s.setReg x (s.reg x &&& s.reg y))

/-- `8XY3`: XOR (R146; `VF` unchanged: log 23). -/
def exec8XY3 (x y : Reg) (s : State) : Host.Outcome State Fault Refusal :=
  .next (s.setReg x (s.reg x ^^^ s.reg y))

/-- `8XY4`: add, `VF` = no carry (R147). -/
def exec8XY4 (x y : Reg) (s : State) : Host.Outcome State Fault Refusal :=
  .next (s.setRegFlag x (s.reg x + s.reg y) (noCarry (s.reg x) (s.reg y)))

/-- `8XY5`: `VX - VY`, `VF` = no borrow (R148). -/
def exec8XY5 (x y : Reg) (s : State) : Host.Outcome State Fault Refusal :=
  .next (s.setRegFlag x (s.reg x - s.reg y) (noBorrow (s.reg x) (s.reg y)))

/-- `8XY6`: shift right, `VF` = the bit moved out (R150). -/
def exec8XY6 (x : Reg) (s : State) : Host.Outcome State Fault Refusal :=
  .next (s.setRegFlag x (s.reg x >>> 1) (lowBit (s.reg x)))

/-- `8XY7`: `VY - VX`, `VF` = no borrow (R149). -/
def exec8XY7 (x y : Reg) (s : State) : Host.Outcome State Fault Refusal :=
  .next (s.setRegFlag x (s.reg y - s.reg x) (noBorrow (s.reg y) (s.reg x)))

/-- `8XYE`: shift left, `VF` = the bit moved out (R151). -/
def exec8XYE (x : Reg) (s : State) : Host.Outcome State Fault Refusal :=
  .next (s.setRegFlag x (s.reg x <<< 1) (highBit (s.reg x)))

/-- `CXNN`: random byte masked (R152; log 3). -/
def execCXNN (x : Reg) (nn : Byte) (s : State) : Host.Outcome State Fault Refusal :=
  .next (s.countDraw.setReg x (s.drawn &&& nn))

end Sys2Proof.Machine
end

