-- ==== Sys2Proof/Machine/Control.lean ====
section
/-! DEFINITION. Control transfer and the stack (41_control.md). `pc` already points past the instruction (R103). -/

namespace Sys2Proof.Machine

/-- `00EE`: return (R120). -/
def exec00EE (s : State) : Host.Outcome State Fault Refusal := .next (s.popped.setPc s.popValue)

/-- `1NNN`: jump (R121). -/
def exec1NNN (nnn : Addr12) (s : State) : Host.Outcome State Fault Refusal := .next (s.setPc (zextAddr nnn))

/-- `2NNN`: call (R122). -/
def exec2NNN (nnn : Addr12) (s : State) : Host.Outcome State Fault Refusal :=
  .next ((s.push s.pc).setPc (zextAddr nnn))

/-- `BNNN`: jump to `NNN + V0` (R123; log 9). -/
def execBNNN (nnn : Addr12) (s : State) : Host.Outcome State Fault Refusal :=
  .next (s.setPc (zextAddr nnn + zextByte (s.reg 0)))

/-- An unsupported word changes nothing; the advance of `pc` stands (R77, R105). -/
def execUnsupported (s : State) : Host.Outcome State Fault Refusal := .next s

end Sys2Proof.Machine
end

