-- ==== Sys2Proof/Machine/Display.lean ====
section
/-! DEFINITION. Clear screen and sprite draw (45_display.md). -/

namespace Sys2Proof.Machine

/-- `00E0`: clear the framebuffer and emit REDRAW (R181). -/
def exec00E0 (s : State) : Host.Outcome State Fault Refusal := .next ((s.setFb Framebuffer.clear).emit .redraw)

/-- `DXYN`: draw `N` rows at `(VX, VY)`, `VF` = collision, written last, and emit REDRAW (R182). -/
def execDXYN (x y : Reg) (n : Nibble) (s : State) : Host.Outcome State Fault Refusal :=
  let d := drawSprite s (s.reg x).toNat (s.reg y).toNat n.toNat
  .next (((s.setFb d.1).setReg regF (flagOf d.2)).emit .redraw)

end Sys2Proof.Machine
end

