-- ==== Sys2Proof/Machine/Index.lean ====
section
/-! DEFINITION. The index register and memory transfers (44_index_memory.md). -/

namespace Sys2Proof.Machine

/-- `ANNN`: `I = NNN` (R170). -/
def execANNN (nnn : Addr12) (s : State) : Host.Outcome State Fault Refusal := .next (s.setI (zextAddr nnn))

/-- `FX1E`: `I += VX` mod 4096, `VF` = overflow, written last (R171; log 12). -/
def execFX1E (x : Reg) (s : State) : Host.Outcome State Fault Refusal :=
  .next ((s.setI (BitVec.ofNat 16 (wrapAddr (s.I.toNat + (s.reg x).toNat)))).setReg regF (indexOverflow s.I (s.reg x)))

/-- `FX29`: `I = 0x50 + VX * 5` (R172). -/
def execFX29 (x : Reg) (s : State) : Host.Outcome State Fault Refusal := .next (s.setI (glyphAddr (s.reg x)))

/-- `FX33`: store the decimal digits of `VX` (R173). -/
def execFX33 (x : Reg) (s : State) : Host.Outcome State Fault Refusal :=
  outcomeOf (memWriteAll s.instrPc s (digitStores s.I.toNat (s.reg x)))

/-- `FX55`: store `V0` to `VX` (R174). -/
def execFX55 (x : Reg) (s : State) : Host.Outcome State Fault Refusal :=
  outcomeOf (memWriteAll s.instrPc s (registerStores s x))

/-- `FX65`: load `V0` to `VX` (R175). -/
def execFX65 (x : Reg) (s : State) : Host.Outcome State Fault Refusal :=
  match memReadAll s.instrPc s (registerLoads s x) with
  | .ok bs => .next (s.setRegs ((regsUpTo x).zip bs))
  | .error f => .fault f

end Sys2Proof.Machine
end

