-- ==== Sys2Proof/Machine/Keys.lean ====
section
/-! DEFINITION. Keyboard and timer instructions (46_keys_timers.md). -/

namespace Sys2Proof.Machine

/-- `EX9E`: skip if key `VX` is pressed, then query clear (R192). -/
def execEX9E (x : Reg) (s : State) : Host.Outcome State Fault Refusal :=
  .next (s.skipIf (pressed s.KM (s.reg x))).queryClear

/-- `EXA1`: skip if key `VX` is not pressed, then query clear (R193). -/
def execEXA1 (x : Reg) (s : State) : Host.Outcome State Fault Refusal :=
  .next (s.skipIf (!pressed s.KM (s.reg x))).queryClear

/-- `FX0A`: with no key set, step `pc` back to this instruction; else take the lowest key and clear the mask (R194). -/
def execFX0A (x : Reg) (s : State) : Host.Outcome State Fault Refusal :=
  if s.KM = 0 then .next (s.setPc (s.pc - 2)) else .next ((s.setReg x (lowestKey s.KM)).setKM 0)

/-- `FX07`: `VX = DT`, before this cycle's tick (R195; log 16). -/
def execFX07 (x : Reg) (s : State) : Host.Outcome State Fault Refusal := .next (s.setReg x s.DT)

/-- `FX15`: `DT = VX` (R196; log 16). -/
def execFX15 (x : Reg) (s : State) : Host.Outcome State Fault Refusal := .next (s.setDT (s.reg x))

/-- `FX18`: `ST = VX` (R197; log 16). -/
def execFX18 (x : Reg) (s : State) : Host.Outcome State Fault Refusal := .next (s.setST (s.reg x))

end Sys2Proof.Machine
end

