-- ==== Sys2Proof/Machine/Step.lean ====
section
/-! DEFINITION. One cycle of the block (40_cycle.md rule R101). -/

namespace Sys2Proof.Machine

/-- `step`: fetch, advance `pc`, decode, execute, tick, signal (R100, R101). -/
def step (s : State) : Host.Outcome State Fault Refusal :=
  match fetch s with
  | .error f => .fault f
  | .ok w =>
    match exec (decodeWord w) (beginCycle s) with
    | .next t => .next (endCycle t)
    | .fault f => .fault f
    | .refused r => .refused r

/-- The state whose next step runs the word `w` of spec/opcode_table.json (log 6). -/
def State.withFetchWord (s : State) (nbits w : Nat) : State := placeWord s (tableWord nbits w)

end Sys2Proof.Machine
end

