-- ==== Sys2Proof/Machine/HostPort.lean ====
section
/-! DEFINITION. The host's transactions (60_exceptions.md rule R218): each whole, between two cycles (log 5). -/

namespace Sys2Proof.Machine

/-- Memory after `init`: FONT_DATA at 0x050, zero elsewhere (R40, R230). -/
def fontMemory (font : Vector Byte Config.fontBytes) : Memory :=
  Memory.writeAll [] ((List.range Config.fontBytes).map fun k => (Config.fontBase + k, fontByte font (Config.fontBase + k)))

/-- `init(FONT_DATA)` (R230; FONT_DATA's constraint is R5's, decision D15): every piece of state at its reset value; the parameters are no state (R33) and the count of
draws goes on, so that a later draw is a fresh one (log 30). -/
def State.init (s : State) (font : Config.FontData) : State :=
  { State.reset with mem := fontMemory font.val, params := s.params, draws := s.draws }

/-- The stores of `load_rom` (R232): the first 2048 bytes, from 0x200 on. -/
def romStores (bytes : List Byte) : List (Nat × Byte) :=
  let image := bytes.take Config.romMax
  ((List.range image.length).map fun k => Config.progBase + k).zip image

/-- `load_rom(bytes)` (R232). -/
def State.loadRom (s : State) (bytes : List Byte) : State := s.setMem (s.mem.writeAll (romStores bytes))

/-- The count that `load_rom` returns (R232). -/
def loadRomCount (bytes : List Byte) : Nat := min bytes.length Config.romMax

/-- `step(r)` (R101, R218): one cycle with the host's random byte `r`. -/
def stepWith (r : Byte) (s : State) : Host.Outcome State Fault Refusal := step { s with rnd := some r }

/-- The mask with only bit `k` (R222). -/
def keyBit (k : Nat) : Word := 1#16 <<< k

/-- `key_down(k)` (R222). -/
def State.keyDown (s : State) (k : Nat) : State := if k < 16 then s.setKM (s.KM ||| keyBit k) else s

/-- `key_up(k)` (R223; log 24). -/
def State.keyUp (s : State) (k : Nat) : State := if k < 16 then s.setKM (s.KM &&& ~~~(keyBit k)) else s

/-- `set_key_policy(p)` (R218). -/
def State.setKeyPolicy (s : State) (p : KeyPolicy) : State := { s with KP := p }

/-- `fb_read(p)`: pixel `p = y * 64 + x` (R180; log 29). -/
def State.fbRead (s : State) (p : Fin 2048) : Bool :=
  s.fb.pixel ⟨p.val % 64, Nat.mod_lt _ (by decide)⟩ ⟨p.val / 64, Nat.div_lt_of_lt_mul p.isLt⟩

/-- `timers_read` (R218): `DT`, `ST`. -/
def State.timersRead (s : State) : Byte × Byte := (s.DT, s.ST)

/-- `buzzer`: on while `ST > 0` (R108). -/
def State.buzzer (s : State) : Bool := decide (0 < s.ST.toNat)

/-- A transaction of the host that can change the block (R218); the reads `fb_read`, `timers_read`, `buzzer` and the event
list are functions of the state. -/
inductive Transaction
  | init (font : Config.FontData)
  | loadRom (bytes : List Byte)
  | step (r : Byte)
  | keyDown (k : Nat)
  | keyUp (k : Nat)
  | setKeyPolicy (p : KeyPolicy)
  deriving DecidableEq, Repr

/-- One transaction, applied whole (R218). -/
def transact (t : Transaction) (s : State) : Host.Outcome State Fault Refusal :=
  match t with
  | .init font => .next (s.init font)
  | .loadRom bytes => .next (s.loadRom bytes)
  | .step r => stepWith r s
  | .keyDown k => .next (s.keyDown k)
  | .keyUp k => .next (s.keyUp k)
  | .setKeyPolicy p => .next (s.setKeyPolicy p)

/-- A session: transactions one at a time, in any interleaving (R220); a faulted block takes no further one (R211). -/
def runSession : List Transaction → State → Host.Outcome State Fault Refusal
  | [], s => .next s
  | t :: ts, s =>
    match transact t s with
    | .next s' => runSession ts s'
    | .fault f => .fault f
    | .refused r => .refused r

end Sys2Proof.Machine
end

