-- ==== Sys2Proof/Safety.lean ====
section
/-! DEFINITION. What counts as a safe run, in the terms the statements use. -/

namespace Sys2Proof.Machine

/-- The invariant of the block: memory is in canonical form (R31, R50), the index register holds a value reachable from
reset (R23), and the event list has each kind at most once, in R110's order. -/
def State.Inv (s : State) : Prop :=
  s.mem.wf ∧ s.I.toNat < Config.memSize ∧ s.events.Sublist [.redraw, .beep, .cycle]

/-- The first address of a list of accesses that is out of range, where ADDR_OOB says that such an access faults
(R51, R211). -/
def firstOutOfRange (mode : AddrOob) (addrs : List Nat) : Option Nat :=
  match mode with
  | .wrap => none
  | .fault => addrs.find? fun a => decide (Config.memSize ≤ a)

/-- The data accesses that pass through `maddr`, in the order the instruction makes them; no other instruction makes any
(R56), and the sprite read of `DXYN` wraps by itself (R51). -/
def dataAccesses (i : Instr) (s : State) : List Nat :=
  match i with
  | .opFX33 _ => [s.I.toNat, s.I.toNat + 1, s.I.toNat + 2]
  | .opFX55 x => (List.range (x.val + 1)).map (s.I.toNat + ·)
  | .opFX65 x => (List.range (x.val + 1)).map (s.I.toNat + ·)
  | _ => []

/-- What may still follow in a session that the host keeps legal. -/
inductive SessionPhase
  | start
  | loaded
  | running
  deriving DecidableEq, Repr

/-- After `init`, at most one `load_rom`, and that before the first `step`; keys and policy at any time (R221, R233). -/
def legalFrom : SessionPhase → List Transaction → Bool
  | _, [] => true
  | _, .init _ :: _ => false
  | .start, .loadRom _ :: ts => legalFrom .loaded ts
  | .loaded, .loadRom _ :: _ => false
  | .running, .loadRom _ :: _ => false
  | _, .step _ :: ts => legalFrom .running ts
  | p, .keyDown _ :: ts => legalFrom p ts
  | p, .keyUp _ :: ts => legalFrom p ts
  | p, .setKeyPolicy _ :: ts => legalFrom p ts

/-- A session that the host keeps legal: `init` once and first (R221, R233). -/
def Session.legal : List Transaction → Bool
  | .init _ :: ts => legalFrom .start ts
  | .loadRom _ :: _ => false
  | .step _ :: _ => false
  | .keyDown _ :: _ => false
  | .keyUp _ :: _ => false
  | .setKeyPolicy _ :: _ => false
  | [] => false

end Sys2Proof.Machine
end

