-- ==== Sys2Proof/Certificates/Slice0/Obligations.lean ====
section
/-! DEFINITION. The statements for the provers. A statement whose docstring names a decision D<n> or a GK<n> of the spec
rests on that choice of the spec's, which the log entry named beside it records. -/

namespace Sys2Proof.Machine

/-! ### The words the statements use -/

/-- The parts of the state that a frame speaks of, the general registers apart. -/
inductive Part
  | pc
  | I
  | sp
  | stack
  | DT
  | ST
  | KM
  | KP
  | fb
  | mem
  | events
  | draws
  | params
  deriving DecidableEq, Repr

/-- A part is the same in `t` as in `s`; memory byte by byte, the framebuffer pixel by pixel. -/
def Part.kept (p : Part) (s t : State) : Prop :=
  match p with
  | .pc => t.pc = s.pc
  | .I => t.I = s.I
  | .sp => t.sp = s.sp
  | .stack => t.stack = s.stack
  | .DT => t.DT = s.DT
  | .ST => t.ST = s.ST
  | .KM => t.KM = s.KM
  | .KP => t.KP = s.KP
  | .fb => ∀ x y, t.fb.pixel x y = s.fb.pixel x y
  | .mem => ∀ a, t.mem.read a = s.mem.read a
  | .events => t.events = s.events
  | .draws => t.draws = s.draws
  | .params => t.params = s.params ∧ t.rnd = s.rnd

/-- Only the registers `regs` and the parts `written` may differ between `s` and `t`. -/
def Frame (regs : List Reg) (written : List Part) (s t : State) : Prop :=
  (∀ r, r ∉ regs → t.reg r = s.reg r) ∧ ∀ p, p ∉ written → p.kept s t

/-- No access of the list can fault: ADDR_OOB is WRAP, or every address lies in the array (R51). -/
def InRange (s : State) (addrs : List Nat) : Prop :=
  s.params.addrOob = .wrap ∨ ∀ a ∈ addrs, a < 4096

/-- `a` is the first address of the list that is out of range (R211). -/
def FirstOut (addrs : List Nat) (a : Nat) : Prop :=
  4096 ≤ a ∧ ∃ before after, addrs = before ++ a :: after ∧ ∀ b ∈ before, b < 4096

/-- The word at `pc`, its addresses wrapped (R53). -/
def wordAtPc (s : State) : Word :=
  wordOfBytes (s.mem.read (s.pc.toNat % 4096)) (s.mem.read ((s.pc.toNat + 1) % 4096))

/-- Every access of the cycle from `s` that passes through `maddr`, in order (R56). -/
def cycleAccesses (s : State) : List Nat :=
  [s.pc.toNat, s.pc.toNat + 1] ++ dataAccesses (decodeWord (wordAtPc s)) s

/-- The sprite of `n` rows at column `x0`, row `y0` has a lit bit that falls on the pixel (R184, R185). -/
def SpritePixel (s : State) (x0 y0 n : Nat) (x : Fin 64) (y : Fin 32) : Prop :=
  x0 ≤ x.val ∧ x.val < x0 + 8 ∧ y0 ≤ y.val ∧ y.val < y0 + n ∧
    (s.mem.read ((s.I.toNat + (y.val - y0)) % 4096)).getLsbD (7 - (x.val - x0)) = true

/-- The registers an instruction may write (R20, R153). -/
def destRegs (i : Instr) : List Reg :=
  match i with
  | .op6XNN x _ => [x]
  | .op7XNN x _ => [x]
  | .op8XY0 x _ => [x]
  | .op8XY1 x _ => [x]
  | .op8XY2 x _ => [x]
  | .op8XY3 x _ => [x]
  | .op8XY4 x _ => [x, 15]
  | .op8XY5 x _ => [x, 15]
  | .op8XY6 x _ => [x, 15]
  | .op8XY7 x _ => [x, 15]
  | .op8XYE x _ => [x, 15]
  | .opCXNN x _ => [x]
  | .opDXYN _ _ _ => [15]
  | .opFX07 x => [x]
  | .opFX0A x => [x]
  | .opFX1E _ => [15]
  | .opFX65 x => regsUpTo x
  | _ => []

/-- Pushes in the order of the list (R124). -/
def pushAll : List Word → State → State
  | [], s => s
  | a :: as, s => pushAll as (s.push a)

/-- The values of `n` pops, first pop first, and the state after them (R125). -/
def popAll : Nat → State → List Word × State
  | 0, s => ([], s)
  | n + 1, s => (s.popValue :: (popAll n s.popped).1, (popAll n s.popped).2)

/-- Every piece of state at its reset value, memory byte by byte under the given font (R40); the parameters are no state. -/
def AtReset (font : Vector Byte 80) (s : State) : Prop :=
  (∀ r, s.reg r = 0) ∧ s.pc = 0x200 ∧ s.I = 0 ∧ s.sp = 0 ∧ (∀ k : Fin 16, s.stack[k.val] = 0) ∧ s.DT = 0 ∧ s.ST = 0 ∧
  (∀ x y, s.fb.pixel x y = false) ∧ s.KM = 0 ∧ s.KP = .autoClear ∧ s.events = [] ∧
  (∀ k : Fin 80, s.mem.read (0x050 + k.val) = font[k.val]) ∧ ∀ a, a < 0x050 ∨ 0x09F < a → s.mem.read a = 0

end Sys2Proof.Machine

open Sys2Proof Sys2Proof.Machine

/-! ### Encoding -/

/-- Decoding the bytes of any well-formed instruction gives it back (30_encoding.md; the kept ignored bits are log 26). -/
def Obligations.DecodeOfEncodeIsTheInstruction : Prop :=
  ∀ i : Instr, i.wellFormed = true → decode (encodeBytes i) = .ok (i, [])

/-- Every word decodes to a well-formed instruction that encodes back to that word (30_encoding.md; log 26). -/
def Obligations.EncodeOfDecodeIsTheWord : Prop :=
  ∀ w : Word, (decodeWord w).wellFormed = true ∧ encode (decodeWord w) = w

/-- The decoder selects the row of spec/opcode_table.json whose fixed bits the word has, and `unsupported` of the word
when no row fits (rests on decision D8 for the alias words, log 11). -/
def Obligations.DecoderSelectsTheFittingTableRow : Prop :=
  ∀ w : Word,
    (∀ r ∈ opcodeRows, r.fits w = true ↔ (decodeWord w).mnemonic = r.mnemonic) ∧
    ((∀ r ∈ opcodeRows, r.fits w = false) ↔ decodeWord w = .unsupported w)

/-- Words written out from the spec's encodings decode to their instructions (95_test_vectors.md, 30_encoding.md). -/
def Obligations.SampleWordsDecode : Prop :=
  ∀ p ∈ [((0x00EE : Word), Instr.op00EE 0), (0x1234, .op1NNN 0x234), (0x3342, .op3XNN 3 0x42),
      (0x8AB4, .op8XY4 10 11), (0x7A01, .op7XNN 10 0x01), (0xA050, .opANNN 0x050), (0xF033, .opFX33 0),
      (0xD12F, .opDXYN 1 2 15), (0xEFA1, .opEXA1 15), (0xF20A, .opFX0A 2), (0xFFFF, .unsupported 0xFFFF)],
    decodeWord p.1 = p.2

/-! ### The cycle -/

/-- When the two bytes at `pc` and `pc + 1`, high byte first (R53) and their addresses modulo 4096 under WRAP (R51, R55, which are
decision D3, log 7), decode to a well-formed instruction, the step is `exec` of it between the cycle's own parts (R101
with R102, R106, R109): first `pc + 2` modulo 2^16 (R103, with decision D4, log 9), at the end the tick with its BEEP
(R107, which is decision D26, log 22) and CYCLE. The event field is log 4, the cleared random byte log 3. -/
def Obligations.StepRunsTheDecodedInstruction : Prop :=
  (∀ (s : State) (i : Instr), i.wellFormed = true → InRange s [s.pc.toNat, s.pc.toNat + 1] →
    decode [s.mem.read (s.pc.toNat % 4096), s.mem.read ((s.pc.toNat + 1) % 4096)] = .ok (i, []) →
    step s = match exec i (beginCycle s) with
      | .next u => .next (endCycle u)
      | .fault f => .fault f
      | .refused r => .refused r) ∧
  (∀ s : State, beginCycle s = { s with pc := s.pc + 2, events := [] }) ∧
  ∀ u : State, endCycle u = { u with
    DT := if u.DT = 0 then 0 else u.DT - 1, ST := if u.ST = 0 then 0 else u.ST - 1, rnd := none,
    events := u.events ++ (if u.ST = 1 then [.beep] else []) ++ [.cycle] }

/-- The fetched word has the byte at `pc` as its high byte and the byte at `pc + 1` as its low byte (R53), the addresses
taken modulo 4096 under WRAP (R51, R55, which are decision D3, log 7). -/
def Obligations.FetchIsBigEndian : Prop :=
  ∀ s : State, InRange s [s.pc.toNat, s.pc.toNat + 1] → ∃ w, fetch s = .ok w ∧
    w.toNat = 256 * (s.mem.read (s.pc.toNat % 4096)).toNat + (s.mem.read ((s.pc.toNat + 1) % 4096)).toNat

/-- A cycle has a result for every state and random byte under WRAP (R114); under FAULT it faults on the first address out of
range of the cycle's own accesses, with the address of the instruction (R211, which is decision D3, log 7; the fault's
form is log 27). -/
def Obligations.CycleIsTotal : Prop :=
  (∀ s : State, InRange s (cycleAccesses s) → ∃ t, step s = .next t) ∧
  ∀ (s : State) (a : Nat), s.params.addrOob = .fault → FirstOut (cycleAccesses s) a →
    step s = .fault (.addressOutOfRange a s.pc)

/-- R106 and R109: after execute each nonzero timer is decremented by one, BEEP comes exactly where the tick found
`ST = 1`, and CYCLE ends the cycle. -/
def Obligations.EveryCycleTicksTheTimers : Prop :=
  ∀ s t : State, step s = .next t → ∃ w u, fetch s = .ok w ∧ exec (decodeWord w) (beginCycle s) = .next u ∧
    t.DT.toNat = u.DT.toNat - 1 ∧ t.ST.toNat = u.ST.toNat - 1 ∧
    t.events = u.events ++ (if u.ST.toNat = 1 then [.beep] else []) ++ [.cycle]

/-- A cycle's events are REDRAW exactly for `00E0` and `DXYN`, then BEEP exactly where the tick found `ST = 1`, then
CYCLE (the spec's decisions D18 and D26, log 22; the event field is log 4). -/
def Obligations.CycleEventsInOrder : Prop :=
  ∀ (s t : State) (w : Word), fetch s = .ok w → step s = .next t →
    ∃ u, exec (decodeWord w) (beginCycle s) = .next u ∧
      t.events = (if (decodeWord w).mnemonic ∈ ["00E0", "DXYN"] then [.redraw] else []) ++
        (if u.ST.toNat = 1 then [.beep] else []) ++ [.cycle]

/-- R105: an unsupported word changes nothing but `pc`, the timers' tick and the CYCLE event; the class is spelled from
R77. -/
def Obligations.UnsupportedWordOnlyAdvances : Prop :=
  (∀ (w : Word) (s : State), exec (.unsupported w) s = .next s) ∧
  ∀ (s : State) (w : Word), fetch s = .ok w →
    ((w.toNat / 4096 = 0x0 ∧ w.toNat % 256 ≠ 0xE0 ∧ w.toNat % 256 ≠ 0xEE) ∨
      (w.toNat / 4096 = 0x8 ∧ w.toNat % 16 ∈ [0x8, 0x9, 0xA, 0xB, 0xC, 0xD, 0xF]) ∨
      (w.toNat / 4096 = 0xE ∧ w.toNat % 256 ≠ 0x9E ∧ w.toNat % 256 ≠ 0xA1) ∨
      (w.toNat / 4096 = 0xF ∧ w.toNat % 256 ∉ [0x07, 0x0A, 0x15, 0x18, 0x1E, 0x29, 0x33, 0x55, 0x65])) →
    ∃ t, step s = .next t ∧ t.pc = s.pc + 2 ∧ t.DT.toNat = s.DT.toNat - 1 ∧ t.ST.toNat = s.ST.toNat - 1 ∧
      t.events = (if s.ST.toNat = 1 then [.beep] else []) ++ [.cycle] ∧ t.params = s.params ∧ t.v = s.v ∧
      t.I = s.I ∧ t.sp = s.sp ∧ t.stack = s.stack ∧ t.KM = s.KM ∧ t.KP = s.KP ∧ t.fb = s.fb ∧ t.mem = s.mem ∧ t.draws = s.draws

/-! ### Reset and the host's transactions -/

/-- The state after reset (R40, where "zeroed state" is decision D23, log 20; the default font is GK1, log 2). -/
def Obligations.ResetState : Prop :=
  AtReset Config.defaultFont State.reset ∧ State.reset.params = ⟨.wrap, .wrapTo15⟩ ∧ State.reset.mem = []

/-- `init` puts every piece of state at its reset value from any state, with the host's FONT_DATA in memory, whose first
byte is 0xF0 (R230, where "zeroed state" is decision D23, log 20; FONT_DATA is decision D15, log 2); it keeps the
parameters (log 30), and memory is in the model's canonical form (log 2). -/
def Obligations.InitPutsEveryPieceAtReset : Prop :=
  ∀ (s : State) (font : Config.FontData), AtReset font.val (s.init font) ∧ (s.init font).mem.read 0x050 = 0xF0 ∧
    (s.init font).params = s.params ∧ (s.init font).mem.wf

/-- R232: `load_rom` copies the first 2048 bytes to 0x200 onward, returns their count and changes nothing else; after `init`
and an empty image the first fetch reads 0x0000. -/
def Obligations.LoadRomCopiesTheImage : Prop :=
  ∀ (s : State) (bytes : List Byte), s.mem.wf →
    loadRomCount bytes = (if bytes.length ≤ 2048 then bytes.length else 2048) ∧
    (∀ (k : Nat) (h : k < bytes.length), k < 2048 → (s.loadRom bytes).mem.read (0x200 + k) = bytes[k]) ∧
    (∀ a, a < 0x200 ∨ 0x200 + bytes.length ≤ a ∨ 0xA00 ≤ a → (s.loadRom bytes).mem.read a = s.mem.read a) ∧
    Frame [] [.mem] s (s.loadRom bytes) ∧
    ∀ font, loadRomCount [] = 0 ∧ fetch ((s.init font).loadRom []) = .ok 0x0000

/-- R222: `key_down(k)` sets bit `k` for `k < 16` and does nothing for a larger `k`. -/
def Obligations.KeyDownSetsOneBit : Prop :=
  ∀ (s : State) (k : Nat), Frame [] [.KM] s (s.keyDown k) ∧
    ∀ j, j < 16 → ((s.keyDown k).KM.getLsbD j = true ↔ j = k ∨ s.KM.getLsbD j = true)

/-- `key_up(k)` clears bit `k` for `k < 16`, under both policies, and does nothing for a larger `k` (decision D29, log 24);
`set_key_policy` writes `KP` only. -/
def Obligations.KeyUpClearsOneBit : Prop :=
  ∀ (s : State) (k : Nat), Frame [] [.KM] s (s.keyUp k) ∧
    (∀ j, j < 16 → ((s.keyUp k).KM.getLsbD j = true ↔ j ≠ k ∧ s.KM.getLsbD j = true)) ∧
    ∀ p, (s.setKeyPolicy p).KP = p ∧ Frame [] [.KP] s (s.setKeyPolicy p)

/-- The read ports: pixel `y * 64 + x` is `fb[x][y]` (decision D22, log 29), the timers are `DT` and `ST`, and the buzzer is
off exactly when `ST` is 0 (decision D2, log 5). -/
def Obligations.ReadPorts : Prop :=
  ∀ s : State, (∀ (x : Fin 64) (y : Fin 32) (p : Fin 2048), p.val = y.val * 64 + x.val →
      s.fbRead p = s.fb.pixel x y) ∧
    s.timersRead = (s.DT, s.ST) ∧ (s.buzzer = false ↔ s.ST = 0)

/-! ### The invariant -/

/-- Every step from a state with the invariant leads to a state with it (10_state.md, 20_memory.md, 40_cycle.md). -/
def Obligations.EveryStepKeepsTheInvariant : Prop :=
  ∀ s t : State, s.Inv → step s = .next t → t.Inv

/-- The invariant holds after reset. -/
def Obligations.ResetHasTheInvariant : Prop := State.reset.Inv

/-- Under WRAP, every session of host transactions and steps in any interleaving goes through, from every state with the
invariant, keeps the invariant and never changes the parameters (R112, R114, R220 with decision D17, log 5). -/
def Obligations.SessionsGoThroughUnderWrap : Prop :=
  ∀ (ts : List Transaction) (s : State), s.Inv → s.params.addrOob = .wrap →
    ∃ t, runSession ts s = .next t ∧ t.Inv ∧ t.params = s.params

/-- A session that begins with `init` as R233 asks goes through under WRAP from any state at all (decision D17, log 5). -/
def Obligations.LegalSessionsGoThroughUnderWrap : Prop :=
  ∀ (ts : List Transaction) (s : State), Session.legal ts = true → s.params.addrOob = .wrap →
    ∃ t, runSession ts s = .next t ∧ t.Inv

/-- A faulted block takes no further transaction: its fault is the session's end (R211; decision D3, log 7). -/
def Obligations.AFaultEndsTheSession : Prop :=
  ∀ (ts more : List Transaction) (s : State) (f : Fault), runSession ts s = .fault f →
    runSession (ts ++ more) s = .fault f

/-! ### Control transfer and the stack -/

/-- R121: `1NNN` sets `pc` to `NNN`. -/
def Obligations.JumpSetsPc : Prop :=
  ∀ (nnn : Addr12) (s : State), ∃ t, exec (.op1NNN nnn) s = .next t ∧ t.pc.toNat = nnn.toNat ∧ Frame [] [.pc] s t

/-- `BNNN` sets `pc` to `NNN + V0`, not reduced to 12 bits (decision D4, log 9). -/
def Obligations.JumpOffsetAddsV0 : Prop :=
  ∀ (nnn : Addr12) (s : State), ∃ t, exec (.opBNNN nnn) s = .next t ∧
    t.pc.toNat = nnn.toNat + (s.reg 0).toNat ∧ Frame [] [.pc] s t

/-- `2NNN` stores `pc` in the slot `sp` names, steps `sp` modulo 16 and jumps (the widths are decision D6, log 10). -/
def Obligations.CallPushesTheReturnAddress : Prop :=
  ∀ (nnn : Addr12) (s : State), ∃ t, exec (.op2NNN nnn) s = .next t ∧ t.pc.toNat = nnn.toNat ∧
    t.stack[s.sp.val] = s.pc ∧ (∀ k : Fin 16, k ≠ s.sp → t.stack[k.val] = s.stack[k.val]) ∧
    t.sp.val = (s.sp.val + 1) % 16 ∧ Frame [] [.pc, .sp, .stack] s t

/-- `00EE` steps `sp` back, or at 0 to the slot STACK_UNDERFLOW names, and loads `pc` from there (decision D7, log 8). -/
def Obligations.ReturnPopsTheStack : Prop :=
  ∀ (n : Nibble) (s : State), ∃ (t : State) (k : Fin 16), exec (.op00EE n) s = .next t ∧
    k.val = (if s.sp.val ≠ 0 then s.sp.val - 1 else if s.params.stackUnderflow = .wrapTo15 then 15 else 0) ∧
    t.sp = k ∧ t.pc = s.stack[k.val] ∧ Frame [] [.pc, .sp] s t

/-- A call and the return after it come back to the address following the call, with the old `sp`, unless the call wrapped
the stack under HOLD_AT_0 (41_control.md; decisions D6, D7, logs 8, 10). -/
def Obligations.CallThenReturnComesBack : Prop :=
  ∀ (nnn : Addr12) (n : Nibble) (s t t' : State), s.params.stackUnderflow = .wrapTo15 ∨ s.sp.val ≠ 15 →
    exec (.op2NNN nnn) s = .next t → t'.sp = t.sp → t'.stack = t.stack → t'.params = t.params →
    ∃ u, exec (.op00EE n) t' = .next u ∧ u.pc = s.pc ∧ u.sp = s.sp

/-- Up to 16 pushes and as many pops return the values in reverse order from any `sp` under WRAP_TO_15, up to 15 from
`sp = 0` under HOLD_AT_0, and a 17th push lands on the first (R126, which the spec marks derived; logs 8, 10). -/
def Obligations.StackIsARingOfSixteen : Prop :=
  (∀ (vs : List Word) (s : State),
    (s.params.stackUnderflow = .wrapTo15 ∧ vs.length ≤ 16) ∨
      (s.params.stackUnderflow = .holdAt0 ∧ s.sp = 0 ∧ vs.length ≤ 15) →
    (popAll vs.length (pushAll vs s)).1 = vs.reverse ∧ (popAll vs.length (pushAll vs s)).2.sp = s.sp) ∧
  ∀ (vs : List Word) (w : Word) (s : State), vs.length = 16 → (pushAll (vs ++ [w]) s).stack[s.sp.val] = w

/-! ### Skips -/

/-- R130 and R131: `3XNN` skips if `VX = NN`, `4XNN` if not. -/
def Obligations.SkipOnAByte : Prop :=
  ∀ (x : Reg) (nn : Byte) (s : State),
    (∃ t, exec (.op3XNN x nn) s = .next t ∧ Frame [] [.pc] s t ∧
      t.pc.toNat = (s.pc.toNat + if s.reg x = nn then 2 else 0) % 65536) ∧
    (∃ t, exec (.op4XNN x nn) s = .next t ∧ Frame [] [.pc] s t ∧
      t.pc.toNat = (s.pc.toNat + if s.reg x = nn then 0 else 2) % 65536)

/-- `5XY0` skips if `VX = VY`, `9XY0` if not, whatever the last nibble (decision D8, log 11). -/
def Obligations.SkipOnARegister : Prop :=
  ∀ (x y : Reg) (n : Nibble) (s : State),
    (∃ t, exec (.op5XY0 x y n) s = .next t ∧ Frame [] [.pc] s t ∧
      t.pc.toNat = (s.pc.toNat + if s.reg x = s.reg y then 2 else 0) % 65536) ∧
    (∃ t, exec (.op9XY0 x y n) s = .next t ∧ Frame [] [.pc] s t ∧
      t.pc.toNat = (s.pc.toNat + if s.reg x = s.reg y then 0 else 2) % 65536)

/-! ### Loads, arithmetic and logic -/

/-- R141, R142 and R143: `VX` becomes `NN`, `VX + NN` mod 256, or `VY`, and nothing else changes, `VF` included. -/
def Obligations.LoadsAndImmediateAdd : Prop :=
  ∀ (x y : Reg) (nn : Byte) (s : State),
    (∃ t, exec (.op6XNN x nn) s = .next t ∧ t.reg x = nn ∧ Frame [x] [] s t) ∧
    (∃ t, exec (.op7XNN x nn) s = .next t ∧ (t.reg x).toNat = ((s.reg x).toNat + nn.toNat) % 256 ∧
      Frame [x] [] s t) ∧
    (∃ t, exec (.op8XY0 x y) s = .next t ∧ t.reg x = s.reg y ∧ Frame [x] [] s t)

/-- `8XY1`, `8XY2`, `8XY3` are OR, AND and XOR, bit by bit, and leave `VF` unless it is `VX` (decision D28, log 23). -/
def Obligations.LogicBitByBit : Prop :=
  ∀ (x y : Reg) (s : State),
    (∃ t, exec (.op8XY1 x y) s = .next t ∧ Frame [x] [] s t ∧
      ∀ k, (t.reg x).getLsbD k = ((s.reg x).getLsbD k || (s.reg y).getLsbD k)) ∧
    (∃ t, exec (.op8XY2 x y) s = .next t ∧ Frame [x] [] s t ∧
      ∀ k, (t.reg x).getLsbD k = ((s.reg x).getLsbD k && (s.reg y).getLsbD k)) ∧
    (∃ t, exec (.op8XY3 x y) s = .next t ∧ Frame [x] [] s t ∧
      ∀ k, (t.reg x).getLsbD k = ((s.reg x).getLsbD k ^^ (s.reg y).getLsbD k))

/-- R147: the sum modulo 256, unless `VX` is `VF`, and `VF` = 1 exactly when the sum is at most 0xFF. -/
def Obligations.AddSetsNoCarry : Prop :=
  ∀ (x y : Reg) (s : State), ∃ t, exec (.op8XY4 x y) s = .next t ∧
    (x ≠ 15 → (t.reg x).toNat = ((s.reg x).toNat + (s.reg y).toNat) % 256) ∧
    (t.reg 15).toNat = (if (s.reg x).toNat + (s.reg y).toNat ≤ 0xFF then 1 else 0) ∧ Frame [x, 15] [] s t

/-- R148 and R149: the difference modulo 256, unless `VX` is `VF`, and `VF` = 1 exactly when nothing is borrowed. -/
def Obligations.SubtractSetsNoBorrow : Prop :=
  ∀ (x y : Reg) (s : State),
    (∃ t, exec (.op8XY5 x y) s = .next t ∧
      (x ≠ 15 → (t.reg x).toNat = ((s.reg x).toNat + 256 - (s.reg y).toNat) % 256) ∧
      (t.reg 15).toNat = (if (s.reg y).toNat ≤ (s.reg x).toNat then 1 else 0) ∧ Frame [x, 15] [] s t) ∧
    (∃ t, exec (.op8XY7 x y) s = .next t ∧
      (x ≠ 15 → (t.reg x).toNat = ((s.reg y).toNat + 256 - (s.reg x).toNat) % 256) ∧
      (t.reg 15).toNat = (if (s.reg x).toNat ≤ (s.reg y).toNat then 1 else 0) ∧ Frame [x, 15] [] s t)

/-- R150 and R151: `VX` shifted by one, unless `VX` is `VF`, and `VF` = the bit shifted out; `Y` is not used. -/
def Obligations.ShiftSetsTheBitShiftedOut : Prop :=
  ∀ (x y : Reg) (s : State),
    (∃ t, exec (.op8XY6 x y) s = .next t ∧ (x ≠ 15 → (t.reg x).toNat = (s.reg x).toNat / 2) ∧
      (t.reg 15).toNat = (s.reg x).toNat % 2 ∧ Frame [x, 15] [] s t) ∧
    (∃ t, exec (.op8XYE x y) s = .next t ∧ (x ≠ 15 → (t.reg x).toNat = (s.reg x).toNat * 2 % 256) ∧
      (t.reg 15).toNat = (s.reg x).toNat / 128 ∧ Frame [x, 15] [] s t)

/-- `CXNN` masks the random byte: the host's byte where it named one, else some byte (decision D16, log 3). -/
def Obligations.RandomByteIsMasked : Prop :=
  ∀ (x : Reg) (nn : Byte) (s : State), ∃ (t : State) (r : Byte), exec (.opCXNN x nn) s = .next t ∧
    (∀ r', s.rnd = some r' → r = r') ∧ (∀ k, (t.reg x).getLsbD k = (r.getLsbD k && nn.getLsbD k)) ∧
    Frame [x] [.draws] s t

/-! ### Index register and memory -/

/-- R170: `ANNN` sets `I` to `NNN`. -/
def Obligations.LoadIndex : Prop :=
  ∀ (nnn : Addr12) (s : State), ∃ t, exec (.opANNN nnn) s = .next t ∧ t.I.toNat = nnn.toNat ∧ Frame [] [.I] s t

/-- `FX1E` adds the old `VX` to `I` modulo 4096 and sets `VF` to 1 above 0xFFF, else 0 (decision D9, log 12); `FX29` sets `I`
to `0x50 + VX * 5`, `VX` not masked (decision D30, log 25). -/
def Obligations.IndexArithmetic : Prop :=
  ∀ (x : Reg) (s : State),
    (∃ t, exec (.opFX1E x) s = .next t ∧ t.I.toNat = (s.I.toNat + (s.reg x).toNat) % 4096 ∧
      (t.reg 15).toNat = (if 0xFFF < s.I.toNat + (s.reg x).toNat then 1 else 0) ∧ Frame [15] [.I] s t) ∧
    (∃ t, exec (.opFX29 x) s = .next t ∧ t.I.toNat = 0x50 + (s.reg x).toNat * 5 ∧ Frame [] [.I] s t)

/-- `FX33` stores hundreds, tens and ones at `I`, `I + 1`, `I + 2` (digit order GK4, log 17); under FAULT it faults on the
first of them out of range (decision D3, log 7; `pc - 2` is log 27). -/
def Obligations.DecimalDigitsAreStored : Prop :=
  (∀ (x : Reg) (s : State), s.mem.wf → InRange s [s.I.toNat, s.I.toNat + 1, s.I.toNat + 2] →
    ∃ t, exec (.opFX33 x) s = .next t ∧
      (t.mem.read (s.I.toNat % 4096)).toNat = (s.reg x).toNat / 100 ∧
      (t.mem.read ((s.I.toNat + 1) % 4096)).toNat = (s.reg x).toNat / 10 % 10 ∧
      (t.mem.read ((s.I.toNat + 2) % 4096)).toNat = (s.reg x).toNat % 10 ∧
      (∀ a, (∀ k, k < 3 → a ≠ (s.I.toNat + k) % 4096) → t.mem.read a = s.mem.read a) ∧ Frame [] [.mem] s t) ∧
  ∀ (x : Reg) (s : State), s.params.addrOob = .fault → 4096 ≤ s.I.toNat + 2 →
    exec (.opFX33 x) s = .fault (.addressOutOfRange (max s.I.toNat 4096) (s.pc - 2))

/-- `FX55` stores `V0` to `VX` at `I` to `I + X` and leaves `I` (R174); under FAULT it faults on the first address out of range,
with the instruction's address (R211, which is decision D3, log 7; `pc - 2` is log 27). -/
def Obligations.RegistersAreStored : Prop :=
  (∀ (x : Reg) (s : State), s.mem.wf → s.params.addrOob = .wrap ∨ s.I.toNat + x.val < 4096 →
    ∃ t, exec (.opFX55 x) s = .next t ∧
      (∀ k : Reg, k.val ≤ x.val → t.mem.read ((s.I.toNat + k.val) % 4096) = s.reg k) ∧
      (∀ a, (∀ k : Reg, k.val ≤ x.val → a ≠ (s.I.toNat + k.val) % 4096) → t.mem.read a = s.mem.read a) ∧
      Frame [] [.mem] s t) ∧
  ∀ (x : Reg) (s : State), s.params.addrOob = .fault → 4096 ≤ s.I.toNat + x.val →
    exec (.opFX55 x) s = .fault (.addressOutOfRange (max s.I.toNat 4096) (s.pc - 2))

/-- `FX65` loads `V0` to `VX` from `I` to `I + X` and leaves `I`, and after an `FX55` with the same `X` and `I` it gives back the
registers that were stored (R175); under FAULT it faults as `FX55` does (R211, which is decision D3, log 7; `pc - 2` is
log 27). -/
def Obligations.RegistersAreLoaded : Prop :=
  (∀ (x : Reg) (s : State), s.params.addrOob = .wrap ∨ s.I.toNat + x.val < 4096 →
    ∃ t, exec (.opFX65 x) s = .next t ∧
      (∀ k : Reg, k.val ≤ x.val → t.reg k = s.mem.read ((s.I.toNat + k.val) % 4096)) ∧
      Frame (regsUpTo x) [] s t) ∧
  (∀ (x : Reg) (s : State), s.params.addrOob = .fault → 4096 ≤ s.I.toNat + x.val →
    exec (.opFX65 x) s = .fault (.addressOutOfRange (max s.I.toNat 4096) (s.pc - 2))) ∧
  ∀ (x : Reg) (s t t' : State), s.mem.wf → exec (.opFX55 x) s = .next t → t'.mem = t.mem → t'.I = s.I →
    t'.params = s.params → ∃ u, exec (.opFX65 x) t' = .next u ∧ u.I = s.I ∧ ∀ k : Reg, k.val ≤ x.val → u.reg k = s.reg k

/-! ### Display -/

/-- R181: `00E0` makes every pixel false and emits REDRAW once, whatever the ignored nibble. -/
def Obligations.ClearScreen : Prop :=
  ∀ (n : Nibble) (s : State), ∃ t, exec (.op00E0 n) s = .next t ∧ (∀ x y, t.fb.pixel x y = false) ∧
    t.events = s.events ++ [.redraw] ∧ Frame [] [.fb, .events] s t

/-- `DXYN` XORs exactly the sprite's lit bits inside the framebuffer, `VF` = 1 exactly on a collision with the pixels before
the draw, and emits REDRAW (the bound is decision D19, log 18). -/
def Obligations.DrawXorsTheSprite : Prop :=
  ∀ (x y : Reg) (n : Nibble) (s : State), ∃ t, exec (.opDXYN x y n) s = .next t ∧
    (∀ px py, t.fb.pixel px py = true ↔
      ¬(SpritePixel s (s.reg x).toNat (s.reg y).toNat n.toNat px py ↔ s.fb.pixel px py = true)) ∧
    (t.reg 15 = 0 ∨ t.reg 15 = 1) ∧
    (t.reg 15 = 1 ↔ ∃ px py, SpritePixel s (s.reg x).toNat (s.reg y).toNat n.toNat px py ∧ s.fb.pixel px py = true) ∧
    t.events = s.events ++ [.redraw] ∧ Frame [15] [.fb, .events] s t

/-- The same sprite drawn twice at one place gives the framebuffer back, and on a clear place the second draw collides
exactly when the sprite has a drawn lit bit (R183, which the spec marks derived; decision D19, log 18). -/
def Obligations.DrawingTwiceErases : Prop :=
  ∀ (x y : Reg) (n : Nibble) (s t t' u : State), exec (.opDXYN x y n) s = .next t →
    t'.fb = t.fb → t'.mem = s.mem → t'.I = s.I → t'.reg x = s.reg x → t'.reg y = s.reg y →
    exec (.opDXYN x y n) t' = .next u →
    u.fb = s.fb ∧ (t.reg 15 = 0 → (u.reg 15 = 1 ↔
      ∃ px py, SpritePixel s (s.reg x).toNat (s.reg y).toNat n.toNat px py))

/-! ### Keys and timers -/

/-- `EX9E` skips if key `VX` is pressed, `EXA1` if not; a value of 16 or more is no pressed key (decision D10, log 13); then the
whole mask is cleared under AUTO_CLEAR (decision D11, log 14). -/
def Obligations.KeySkips : Prop :=
  ∀ (x : Reg) (s : State),
    (∃ t, exec (.opEX9E x) s = .next t ∧ t.KM = (if s.KP = .autoClear then 0 else s.KM) ∧ Frame [] [.pc, .KM] s t ∧
      t.pc.toNat = (s.pc.toNat +
        if (s.reg x).toNat < 16 ∧ s.KM.toNat / 2 ^ (s.reg x).toNat % 2 = 1 then 2 else 0) % 65536) ∧
    (∃ t, exec (.opEXA1 x) s = .next t ∧ t.KM = (if s.KP = .autoClear then 0 else s.KM) ∧ Frame [] [.pc, .KM] s t ∧
      t.pc.toNat = (s.pc.toNat +
        if (s.reg x).toNat < 16 ∧ s.KM.toNat / 2 ^ (s.reg x).toNat % 2 = 1 then 0 else 2) % 65536)

/-- `FX0A` with an empty mask steps `pc` back by 2; with a key set it loads the lowest one and clears the mask under both
policies (decision D12, log 15). -/
def Obligations.WaitForKey : Prop :=
  ∀ (x : Reg) (s : State),
    (s.KM = 0 → ∃ t, exec (.opFX0A x) s = .next t ∧ t.pc.toNat = (s.pc.toNat + 65534) % 65536 ∧ Frame [] [.pc] s t) ∧
    (s.KM ≠ 0 → ∃ t k, exec (.opFX0A x) s = .next t ∧ k < 16 ∧ s.KM.getLsbD k = true ∧
      (∀ j, j < k → s.KM.getLsbD j = false) ∧ (t.reg x).toNat = k ∧ t.KM = 0 ∧ Frame [x] [.KM] s t)

/-- `FX07` reads `DT`, `FX15` writes `DT`, `FX18` writes `ST` (the assignment is decision D13 and GK3, log 16). -/
def Obligations.TimerTransfers : Prop :=
  ∀ (x : Reg) (s : State),
    (∃ t, exec (.opFX07 x) s = .next t ∧ t.reg x = s.DT ∧ Frame [x] [] s t) ∧
    (∃ t, exec (.opFX15 x) s = .next t ∧ t.DT = s.reg x ∧ Frame [] [.DT] s t) ∧
    (∃ t, exec (.opFX18 x) s = .next t ∧ t.ST = s.reg x ∧ Frame [] [.ST] s t)

/-- A timer that a cycle loads is ticked in that same cycle, and BEEP is emitted in it exactly when `FX18` loaded 1
(46_keys_timers.md; decisions D13, D26, logs 16, 22). -/
def Obligations.LoadedTimerTicksInTheSameCycle : Prop :=
  ∀ (x : Reg) (s : State),
    (fetch s = .ok (encode (.opFX15 x)) → ∃ t, step s = .next t ∧ t.DT.toNat = (s.reg x).toNat - 1) ∧
    (fetch s = .ok (encode (.opFX18 x)) → ∃ t, step s = .next t ∧ t.ST.toNat = (s.reg x).toNat - 1 ∧
      (.beep ∈ t.events ↔ s.reg x = 1))

/-- While the mask is empty, `FX0A` is fetched again for any number of cycles: of the block's state only the timers run down
(R194 with decision D12, log 15; the event list and the step's random byte are the model's own fields, logs 3, 4). -/
def Obligations.KeyWaitHoldsThePc : Prop :=
  ∀ (k : Nat) (x : Reg) (s : State), s.KM = 0 → fetch s = .ok (encode (.opFX0A x)) →
    ∃ t, Sys2Proof.core.run k s = .next t ∧ t.pc = s.pc ∧ t.KM = 0 ∧ (∀ r, t.reg r = s.reg r) ∧ t.mem = s.mem ∧
      t.DT.toNat = s.DT.toNat - k ∧ t.ST.toNat = s.ST.toNat - k ∧ t.params = s.params ∧
      Frame [] [.DT, .ST, .events, .params] s t

/-! ### Rules of the whole machine -/

/-- Only `ANNN`, `FX1E` and `FX29` change `I` (R176, which the spec marks derived). -/
def Obligations.OnlyThreeInstructionsChangeI : Prop :=
  ∀ (s t : State) (w : Word), fetch s = .ok w → step s = .next t → t.I ≠ s.I →
    (decodeWord w).mnemonic ∈ ["ANNN", "FX1E", "FX29"]

/-- A byte of memory changes only under `FX33` or `FX55`, and only at an address that the instruction stores to (20_memory.md;
decision D3, log 7). -/
def Obligations.MemoryChangesOnlyAtStores : Prop :=
  ∀ (s t : State) (w : Word) (a : Nat), s.mem.wf → fetch s = .ok w → step s = .next t →
    t.mem.read a ≠ s.mem.read a →
    (∃ x, decodeWord w = .opFX33 x ∧ ∃ k, k < 3 ∧ a = (s.I.toNat + k) % 4096) ∨
    (∃ x, decodeWord w = .opFX55 x ∧ ∃ k, k ≤ x.val ∧ a = (s.I.toNat + k) % 4096)

/-- Only `00E0` and `DXYN` change a pixel (10_state.md, 45_display.md). -/
def Obligations.OnlyTwoInstructionsChangeAPixel : Prop :=
  ∀ (s t : State) (w : Word) (x : Fin 64) (y : Fin 32), fetch s = .ok w → step s = .next t →
    t.fb.pixel x y ≠ s.fb.pixel x y → (decodeWord w).mnemonic ∈ ["00E0", "DXYN"]

/-- Only `2NNN` and `00EE` change `sp`, and only `2NNN` changes a stack entry, the one `sp` names (10_state.md; decision D6,
log 10). -/
def Obligations.OnlyCallAndReturnTouchTheStack : Prop :=
  ∀ (s t : State) (w : Word), fetch s = .ok w → step s = .next t →
    (t.sp ≠ s.sp → (decodeWord w).mnemonic ∈ ["2NNN", "00EE"]) ∧
    ∀ k : Fin 16, t.stack[k.val] ≠ s.stack[k.val] → (decodeWord w).mnemonic = "2NNN" ∧ k = s.sp

/-- A step changes the keyboard mask only by clearing it whole, and only under `FX0A`, `EX9E` or `EXA1`; it never changes the
policy or the parameters (10_state.md; decisions D11, D12, logs 14, 15). -/
def Obligations.StepsOnlyClearTheKeyMask : Prop :=
  ∀ (s t : State) (w : Word), fetch s = .ok w → step s = .next t →
    t.KP = s.KP ∧ t.params = s.params ∧
    (t.KM ≠ s.KM → t.KM = 0 ∧ (decodeWord w).mnemonic ∈ ["EX9E", "EXA1", "FX0A"])

/-- But for its tick, a step changes `DT` only under `FX15` and `ST` only under `FX18` (R198; decision D13, log 16). -/
def Obligations.OnlyTwoInstructionsLoadATimer : Prop :=
  ∀ (s t : State) (w : Word), fetch s = .ok w → step s = .next t →
    (t.DT.toNat ≠ s.DT.toNat - 1 → (decodeWord w).mnemonic = "FX15") ∧
    (t.ST.toNat ≠ s.ST.toNat - 1 → (decodeWord w).mnemonic = "FX18")

/-- A step changes no register but the destinations of its instruction, `VF` as a flag among them (R153, which the spec marks
derived; decision D28, log 23). -/
def Obligations.StepsWriteOnlyDestinationRegisters : Prop :=
  ∀ (s t : State) (w : Word) (r : Reg), fetch s = .ok w → step s = .next t → t.reg r ≠ s.reg r →
    r ∈ destRegs (decodeWord w)

/-- Control transfer: `pc` goes on by 2, by 4 under a skip, stays under `FX0A`, or is loaded by `00EE`, `1NNN`, `2NNN` or
`BNNN` (41_control.md; decision D4, log 9). -/
def Obligations.ControlTransferIsListed : Prop :=
  ∀ (s t : State) (w : Word), fetch s = .ok w → step s = .next t →
    t.pc = s.pc + 2 ∨
    (t.pc = s.pc + 4 ∧ (decodeWord w).mnemonic ∈ ["3XNN", "4XNN", "5XY0", "9XY0", "EX9E", "EXA1"]) ∨
    (t.pc = s.pc ∧ (decodeWord w).mnemonic = "FX0A") ∨
    (decodeWord w).mnemonic ∈ ["00EE", "1NNN", "2NNN", "BNNN"]

/-- No instruction reads `ST`: two runs of a step with the same random byte that differ only in `ST` differ afterwards only in
`ST` and in whether BEEP was emitted (R198; decision D13, log 16). The random byte is a free one (decision D16): where the
host named none, both runs draw the same open value, which log 3 marks unsafe for a comparison of two runs. -/
def Obligations.TheSoundTimerIsNeverRead : Prop :=
  ∀ (s t : State) (b : Byte), step s = .next t →
    ∃ t', step { s with ST := b } = .next t' ∧ t' = { t with ST := t'.ST, events := t'.events } ∧
      t'.events.filter (· ≠ .beep) = t.events.filter (· ≠ .beep)

/-- The random byte of `step(r)` reaches only `CXNN`: for every other word the step is the same for every `r`
(R218; decision D16, log 3). -/
def Obligations.TheRandomByteReachesOnlyCXNN : Prop :=
  ∀ (s : State) (w : Word) (r r' : Byte), fetch s = .ok w → (decodeWord w).mnemonic ≠ "CXNN" →
    stepWith r s = stepWith r' s
end

