-- ==== Sys2Proof/Laws/Decode.lean ====
section
/-! SUPPORT. The fields of the words that the encoder builds, and what the decoder answers on an unsupported word. -/

namespace Sys2Proof

theorem extract_left {v w : Nat} (a : BitVec v) (b : BitVec w) (s l : Nat) (h : w ≤ s) :
    (a ++ b).extractLsb' s l = a.extractLsb' (s - w) l := by
  apply BitVec.eq_of_getLsbD_eq
  intro i hi
  have h1 : ¬ s + i < w := by omega
  simp only [BitVec.getLsbD_extractLsb', hi, decide_true, BitVec.getLsbD_append, h1, if_false, Bool.true_and]
  congr 1; omega

theorem extract_right {v w : Nat} (a : BitVec v) (b : BitVec w) (s l : Nat) (h : s + l ≤ w) :
    (a ++ b).extractLsb' s l = b.extractLsb' s l := by
  apply BitVec.eq_of_getLsbD_eq
  intro i hi
  have h1 : s + i < w := by omega
  simp [hi, h1, BitVec.getLsbD_append]

theorem wordOfBytes_bytesOfWord (w : Word) : wordOfBytes (w.extractLsb' 8 8) (w.extractLsb' 0 8) = w := by
  unfold wordOfBytes
  exact (BitVec.extractLsb'_append_extractLsb'_eq_extractLsb' (by decide)).trans (by simp)

theorem decode_bytesOfWord (w : Word) : decode (bytesOfWord w) = .ok (decodeWord w, []) := by
  rw [bytesOfWord, decode, wordOfBytes_bytesOfWord]

@[simp] theorem regOf_nibbleOf (r : Reg) : regOf (nibbleOf r) = r := rfl
@[simp] theorem nibbleOf_regOf (n : Nibble) : nibbleOf (regOf n) = n := rfl

/-! ### Layout `XYN` -/

theorem n1_wordOfNibbles (a b c d : Nibble) : n1 (wordOfNibbles a b c d) = a :=
  (extract_left (a ++ b ++ c) d 12 4 (by decide)).trans <| (extract_left (a ++ b) c 8 4 (by decide)).trans <|
    (extract_left a b 4 4 (by decide)).trans (by simp)

theorem n2_wordOfNibbles (a b c d : Nibble) : n2 (wordOfNibbles a b c d) = b :=
  (extract_left (a ++ b ++ c) d 8 4 (by decide)).trans <| (extract_left (a ++ b) c 4 4 (by decide)).trans <|
    (extract_right a b 0 4 (by decide)).trans (by simp)

theorem n3_wordOfNibbles (a b c d : Nibble) : n3 (wordOfNibbles a b c d) = c :=
  (extract_left (a ++ b ++ c) d 4 4 (by decide)).trans <| (extract_right (a ++ b) c 0 4 (by decide)).trans (by simp)

theorem n4_wordOfNibbles (a b c d : Nibble) : n4 (wordOfNibbles a b c d) = d :=
  (extract_right (a ++ b ++ c) d 0 4 (by decide)).trans (by simp)

theorem nn_wordOfNibbles (a b c d : Nibble) : nn (wordOfNibbles a b c d) = c ++ d := by
  have e : wordOfNibbles a b c d = (a ++ b) ++ (c ++ d) := by
    apply BitVec.eq_of_toNat_eq
    simp only [wordOfNibbles, BitVec.toNat_append, Nat.shiftLeft_or_distrib, ← Nat.shiftLeft_add, Nat.or_assoc]
  rw [e]
  exact (extract_right (a ++ b) (c ++ d) 0 8 (by decide)).trans (by simp)

theorem n1_wordXYN (f : Nibble) (x y : Reg) (n : Nibble) : n1 (wordXYN f x y n) = f := n1_wordOfNibbles ..
theorem n2_wordXYN (f : Nibble) (x y : Reg) (n : Nibble) : n2 (wordXYN f x y n) = nibbleOf x := n2_wordOfNibbles ..
theorem n3_wordXYN (f : Nibble) (x y : Reg) (n : Nibble) : n3 (wordXYN f x y n) = nibbleOf y := n3_wordOfNibbles ..
theorem n4_wordXYN (f : Nibble) (x y : Reg) (n : Nibble) : n4 (wordXYN f x y n) = n := n4_wordOfNibbles ..

/-! ### Layouts `XNN`, `XK` and `A` -/

theorem n1_wordXNN (f : Nibble) (x : Reg) (b : Byte) : n1 (wordXNN f x b) = f :=
  (extract_left (f ++ nibbleOf x) b 12 4 (by decide)).trans <| (extract_left f (nibbleOf x) 4 4 (by decide)).trans
    (by simp)

theorem n2_wordXNN (f : Nibble) (x : Reg) (b : Byte) : n2 (wordXNN f x b) = nibbleOf x :=
  (extract_left (f ++ nibbleOf x) b 8 4 (by decide)).trans <| (extract_right f (nibbleOf x) 0 4 (by decide)).trans
    (by simp)

theorem nn_wordXNN (f : Nibble) (x : Reg) (b : Byte) : nn (wordXNN f x b) = b :=
  (extract_right (f ++ nibbleOf x) b 0 8 (by decide)).trans (by simp)

theorem n1_wordNNN (f : Nibble) (a : Addr12) : n1 (wordNNN f a) = f :=
  (extract_left f a 12 4 (by decide)).trans (by simp)

theorem nnn_wordNNN (f : Nibble) (a : Addr12) : nnn (wordNNN f a) = a :=
  (extract_right f a 0 12 (by decide)).trans (by simp)

/-! ### Every word from its fields (the reader's other direction) -/

theorem wordNNN_fields (w : Word) : wordNNN (n1 w) (nnn w) = w :=
  (BitVec.extractLsb'_append_extractLsb'_eq_extractLsb' (by decide)).trans (by simp)

theorem wordXNN_fields (w : Word) : wordXNN (n1 w) (regOf (n2 w)) (nn w) = w := by
  have e : (n1 w : BitVec 4) ++ (n2 w : BitVec 4) = w.extractLsb' 8 (4 + 4) :=
    BitVec.extractLsb'_append_extractLsb'_eq_extractLsb' (by decide)
  rw [wordXNN, nibbleOf_regOf, e]
  exact (BitVec.extractLsb'_append_extractLsb'_eq_extractLsb' (by decide)).trans (by simp)

theorem nn_nibbles (w : Word) : n3 w ++ n4 w = nn w :=
  BitVec.extractLsb'_append_extractLsb'_eq_extractLsb' (by decide)

theorem wordOfNibbles_fields (w : Word) : wordOfNibbles (n1 w) (n2 w) (n3 w) (n4 w) = w := by
  have e1 : (n1 w : BitVec 4) ++ (n2 w : BitVec 4) = w.extractLsb' 8 (4 + 4) :=
    BitVec.extractLsb'_append_extractLsb'_eq_extractLsb' (by decide)
  have e2 : w.extractLsb' 8 (4 + 4) ++ (n3 w : BitVec 4) = w.extractLsb' 4 (4 + 4 + 4) :=
    BitVec.extractLsb'_append_extractLsb'_eq_extractLsb' (by decide)
  rw [wordOfNibbles, e1, e2]
  exact (BitVec.extractLsb'_append_extractLsb'_eq_extractLsb' (by decide)).trans (by simp)

/-! ### The unsupported class -/

theorem decodeFamily_unsupported {w : Word} (h : unsupportedWord w = true) :
    (n1 w = 0x0 ∧ decodeFamily0 w = .unsupported w) ∨ (n1 w = 0x8 ∧ decodeFamily8 w = .unsupported w) ∨
    (n1 w = 0xE ∧ decodeFamilyE w = .unsupported w) ∨ (n1 w = 0xF ∧ decodeFamilyF w = .unsupported w) := by
  have hl {k : Byte} (e : (nn w).toNat = k.toNat) : w.extractLsb' 0 8 = k := BitVec.eq_of_toNat_eq e
  have h4 {k : Nibble} (e : (n4 w).toNat = k.toNat) : w.extractLsb' 0 4 = k := BitVec.eq_of_toNat_eq e
  simp only [unsupportedWord, Bool.or_eq_true, Bool.and_eq_true, beq_iff_eq] at h
  rcases h with ((⟨e, h⟩ | ⟨e, h⟩) | ⟨e, h⟩) | ⟨e, h⟩
  · refine .inl ⟨e, ?_⟩
    unfold decodeFamily0
    split
    · simp [hl (k := 0xE0) ‹_›] at h
    · simp [hl (k := 0xEE) ‹_›] at h
    · rfl
  · refine .inr (.inl ⟨e, ?_⟩)
    unfold decodeFamily8
    dsimp only
    split
    · simp [h4 (k := 0x0) ‹_›] at h
    · simp [h4 (k := 0x1) ‹_›] at h
    · simp [h4 (k := 0x2) ‹_›] at h
    · simp [h4 (k := 0x3) ‹_›] at h
    · simp [h4 (k := 0x4) ‹_›] at h
    · simp [h4 (k := 0x5) ‹_›] at h
    · simp [h4 (k := 0x6) ‹_›] at h
    · simp [h4 (k := 0x7) ‹_›] at h
    · simp [h4 (k := 0xE) ‹_›] at h
    · rfl
  · refine .inr (.inr (.inl ⟨e, ?_⟩))
    unfold decodeFamilyE
    dsimp only
    split
    · simp [hl (k := 0x9E) ‹_›] at h
    · simp [hl (k := 0xA1) ‹_›] at h
    · rfl
  · refine .inr (.inr (.inr ⟨e, ?_⟩))
    unfold decodeFamilyF
    dsimp only
    split
    · simp [hl (k := 0x07) ‹_›] at h
    · simp [hl (k := 0x0A) ‹_›] at h
    · simp [hl (k := 0x15) ‹_›] at h
    · simp [hl (k := 0x18) ‹_›] at h
    · simp [hl (k := 0x1E) ‹_›] at h
    · simp [hl (k := 0x29) ‹_›] at h
    · simp [hl (k := 0x33) ‹_›] at h
    · simp [hl (k := 0x55) ‹_›] at h
    · simp [hl (k := 0x65) ‹_›] at h
    · rfl

/-- The decoder gives an unsupported word back whole (R77). -/
theorem decodeWord_unsupported {w : Word} (h : unsupportedWord w = true) : decodeWord w = .unsupported w := by
  rcases decodeFamily_unsupported h with ⟨e, h⟩ | ⟨e, h⟩ | ⟨e, h⟩ | ⟨e, h⟩ <;> simp only [decodeWord, e] <;> exact h

end Sys2Proof
end

