-- ==== Sys2Proof/Laws/Memory.lean ====
section
/-! SUPPORT. The laws of the memory array: read after write, and the canonical form is kept. -/

namespace Sys2Proof.Machine.Memory

theorem wf_nil : Memory.wf [] := by simp [wf]

theorem wf_tail {c : Host.Cell} {m : Memory} (h : Memory.wf (c :: m)) : Memory.wf m :=
  ⟨(List.pairwise_cons.1 h.1).2, fun d hd => h.2 d (List.mem_cons_of_mem _ hd)⟩

theorem head_lt {c : Host.Cell} {m : Memory} (h : Memory.wf (c :: m)) : ∀ d ∈ m, c.1 < d.1 :=
  (List.pairwise_cons.1 h.1).1

theorem wf_cons {a : Nat} {v : Byte} {m : Memory} (hm : m.wf) (ha : a < Config.memSize) (hv : v ≠ background a)
    (hlt : ∀ d ∈ m, a < d.1) : Memory.wf ((a, v) :: m) :=
  ⟨List.pairwise_cons.2 ⟨hlt, hm.1⟩, fun c hc => by
    rcases List.mem_cons.1 hc with rfl | hc
    · exact ⟨ha, hv⟩
    · exact hm.2 c hc⟩

/-- An address below every listed one reads as its background. -/
theorem read_of_lt {m : Memory} {a : Nat} (h : ∀ d ∈ m, a < d.1) : m.read a = background a := by
  induction m with
  | nil => rfl
  | cons c m ih =>
    have hc := h c List.mem_cons_self
    rw [read, if_neg (by omega)]
    exact ih fun d hd => h d (List.mem_cons_of_mem _ hd)

/-- A write lists no address but its own and those already listed. -/
theorem mem_write {m : Memory} {a : Nat} {v : Byte} {c : Host.Cell} (h : c ∈ m.write a v) :
    c = (a, v) ∨ c ∈ m := by
  induction m with
  | nil => simp only [write] at h; split at h <;> simp_all
  | cons d m ih =>
    simp only [write] at h
    split at h
    · split at h <;> simp_all
    · split at h
      · split at h
        · exact .inr (List.mem_cons_of_mem _ h)
        · rcases List.mem_cons.1 h with rfl | h
          · exact .inl rfl
          · exact .inr (List.mem_cons_of_mem _ h)
      · rcases List.mem_cons.1 h with rfl | h
        · exact .inr List.mem_cons_self
        · exact (ih h).imp id (List.mem_cons_of_mem _)

/-- A write inside the array keeps the canonical form. -/
theorem wf_write {m : Memory} (hm : m.wf) {a : Nat} (ha : a < Config.memSize) (v : Byte) : (m.write a v).wf := by
  induction m with
  | nil =>
    simp only [write]
    split
    · exact hm
    · exact wf_cons wf_nil ha ‹_› (by simp)
  | cons c m ih =>
    have hlt := head_lt hm
    simp only [write]
    split
    · split
      · exact hm
      · refine wf_cons hm ha ‹_› fun d hd => ?_
        rcases List.mem_cons.1 hd with rfl | hd
        · assumption
        · exact Nat.lt_trans ‹_› (hlt d hd)
    · split
      · split
        · exact wf_tail hm
        · subst_vars
          exact wf_cons (wf_tail hm) ha ‹_› hlt
      · refine wf_cons (ih (wf_tail hm)) (hm.2 c List.mem_cons_self).1 (hm.2 c List.mem_cons_self).2 fun d hd => ?_
        rcases mem_write hd with rfl | hd
        · show c.1 < a; omega
        · exact hlt d hd

/-- A byte reads as what was written to it last, and a write leaves every other byte alone (R52). -/
theorem read_write {m : Memory} (hm : m.wf) (a : Nat) (v : Byte) (b : Nat) :
    (m.write a v).read b = if b = a then v else m.read b := by
  induction m with
  | nil =>
    simp only [write]
    split <;> simp only [read]
    all_goals split <;> simp [*]
  | cons c m ih =>
    have hlt := head_lt hm
    have ih := ih (wf_tail hm)
    have hbg (h : a ≤ c.1) : Memory.read m a = background a := read_of_lt fun d hd => Nat.lt_of_le_of_lt h (hlt d hd)
    simp only [write]
    split
    · rename_i hac
      have hc : a ≠ c.1 := by omega
      split
      · by_cases hb : b = a
        · subst hb; rw [if_pos rfl, read, if_neg hc, hbg (by omega)]; exact Eq.symm ‹_›
        · rw [if_neg hb]
      · rw [read]
    · split
      · have hac : a = c.1 := ‹_›
        split
        · by_cases hb : b = a
          · subst hb; rw [if_pos rfl, hbg (by omega)]; exact Eq.symm ‹_›
          · rw [if_neg hb, read, if_neg (by omega)]
        · rw [read]
          by_cases hb : b = a
          · simp [hb]
          · rw [if_neg hb, if_neg hb, read, if_neg (by omega)]
      · rw [read, ih, read]
        by_cases hb : b = a
        · rw [if_neg (by omega), if_pos hb, if_pos hb]
        · rw [if_neg hb, if_neg hb]

theorem read_write_same {m : Memory} (hm : m.wf) (a : Nat) (v : Byte) : (m.write a v).read a = v := by
  rw [read_write hm, if_pos rfl]

theorem read_write_other {m : Memory} (hm : m.wf) {a b : Nat} (v : Byte) (h : b ≠ a) :
    (m.write a v).read b = m.read b := by
  rw [read_write hm, if_neg h]

theorem wf_writeAll {m : Memory} (hm : m.wf) {l : List (Nat × Byte)} (hl : ∀ p ∈ l, p.1 < Config.memSize) :
    (m.writeAll l).wf := by
  induction l generalizing m with
  | nil => exact hm
  | cons p l ih =>
    exact ih (wf_write hm (hl p List.mem_cons_self) p.2) fun q hq => hl q (List.mem_cons_of_mem _ hq)

theorem read_writeAll_of_not_mem {m : Memory} (hm : m.wf) {l : List (Nat × Byte)}
    (hl : ∀ p ∈ l, p.1 < Config.memSize) {b : Nat} (h : ∀ p ∈ l, p.1 ≠ b) : (m.writeAll l).read b = m.read b := by
  induction l generalizing m with
  | nil => rfl
  | cons p l ih =>
    rw [writeAll, ih (wf_write hm (hl p List.mem_cons_self) p.2) (fun q hq => hl q (List.mem_cons_of_mem _ hq))
      (fun q hq => h q (List.mem_cons_of_mem _ hq)), read_write_other hm _ (h p List.mem_cons_self).symm]

theorem read_writeAll_of_mem {m : Memory} (hm : m.wf) {l : List (Nat × Byte)}
    (hl : ∀ p ∈ l, p.1 < Config.memSize) (hn : (l.map (·.1)).Nodup) {b : Nat} {v : Byte} (h : (b, v) ∈ l) :
    (m.writeAll l).read b = v := by
  induction l generalizing m with
  | nil => cases h
  | cons p l ih =>
    have hw := wf_write hm (hl p List.mem_cons_self) p.2
    have hl' : ∀ q ∈ l, q.1 < Config.memSize := fun q hq => hl q (List.mem_cons_of_mem _ hq)
    simp only [List.map_cons, List.nodup_cons, List.mem_map, not_exists, not_and] at hn
    rcases List.mem_cons.1 h with rfl | h
    · rw [writeAll, read_writeAll_of_not_mem hw hl' fun q hq => hn.1 q hq, read_write_same hm]
    · exact ih hw hl' hn.2 h

theorem read_of_mem {m : Memory} (hm : m.wf) {c : Host.Cell} (hc : c ∈ m) : m.read c.1 = c.2 := by
  induction m with
  | nil => cases hc
  | cons d m ih =>
    rcases List.mem_cons.1 hc with rfl | hc
    · rw [read, if_pos rfl]
    · have := head_lt hm c hc
      rw [read, if_neg (by omega), ih (wf_tail hm) hc]

/-- In canonical form a cell is listed exactly when it reads so and differs from its background. -/
theorem mem_iff {m : Memory} (hm : m.wf) (c : Host.Cell) :
    c ∈ m ↔ m.read c.1 = c.2 ∧ c.2 ≠ background c.1 := by
  refine ⟨fun h => ⟨read_of_mem hm h, (hm.2 c h).2⟩, fun h => ?_⟩
  obtain ⟨h1, h2⟩ := h
  induction m with
  | nil => exact absurd h1.symm h2
  | cons d m ih =>
    rw [read] at h1
    split at h1
    · have : c = d := Prod.ext ‹_› h1.symm
      exact this ▸ List.mem_cons_self
    · exact List.mem_cons_of_mem _ (ih (wf_tail hm) h1)

/-- Equal memories are equal data. -/
theorem eq_of_read {m m' : Memory} (hm : m.wf) (hm' : m'.wf) (h : ∀ a, m.read a = m'.read a) : m = m' := by
  induction m generalizing m' with
  | nil =>
    cases m' with
    | nil => rfl
    | cons d m' => exact absurd ((mem_iff hm d).2 (h d.1 ▸ (mem_iff hm' d).1 List.mem_cons_self)) (by simp)
  | cons c m ih =>
    cases m' with
    | nil => exact absurd ((mem_iff hm' c).2 (h c.1 ▸ (mem_iff hm c).1 List.mem_cons_self)) (by simp)
    | cons d m' =>
      have e : c = d := by
        have h1 : c ∈ d :: m' := (mem_iff hm' c).2 (h c.1 ▸ (mem_iff hm c).1 List.mem_cons_self)
        have h2 : d ∈ c :: m := (mem_iff hm d).2 (h d.1 ▸ (mem_iff hm' d).1 List.mem_cons_self)
        rcases List.mem_cons.1 h1 with e | h1
        · exact e
        rcases List.mem_cons.1 h2 with e | h2
        · exact e.symm
        have := head_lt hm d h2
        have := head_lt hm' c h1
        omega
      subst e
      refine congrArg _ (ih (wf_tail hm) (wf_tail hm') fun a => ?_)
      by_cases ha : a = c.1
      · rw [read_of_lt fun d hd => ha ▸ head_lt hm d hd, read_of_lt fun d hd => ha ▸ head_lt hm' d hd]
      · have := h a
        rwa [read, read, if_neg ha, if_neg ha] at this

end Sys2Proof.Machine.Memory
end

