-- ==== Sys2Proof/Laws/State.lean ====
section
/-! SUPPORT. One lemma per field per update of the state, so that no proof unfolds a record update. -/

namespace Sys2Proof.Machine.State

/-! ### `setReg` -/

@[simp] theorem setReg_v (s : State) (r : Reg) (b : Byte) : (s.setReg r b).v = s.v.set r.val b := rfl
@[simp] theorem setReg_pc (s : State) (r : Reg) (b : Byte) : (s.setReg r b).pc = s.pc := rfl
@[simp] theorem setReg_I (s : State) (r : Reg) (b : Byte) : (s.setReg r b).I = s.I := rfl
@[simp] theorem setReg_sp (s : State) (r : Reg) (b : Byte) : (s.setReg r b).sp = s.sp := rfl
@[simp] theorem setReg_stack (s : State) (r : Reg) (b : Byte) : (s.setReg r b).stack = s.stack := rfl
@[simp] theorem setReg_DT (s : State) (r : Reg) (b : Byte) : (s.setReg r b).DT = s.DT := rfl
@[simp] theorem setReg_ST (s : State) (r : Reg) (b : Byte) : (s.setReg r b).ST = s.ST := rfl
@[simp] theorem setReg_KM (s : State) (r : Reg) (b : Byte) : (s.setReg r b).KM = s.KM := rfl
@[simp] theorem setReg_KP (s : State) (r : Reg) (b : Byte) : (s.setReg r b).KP = s.KP := rfl
@[simp] theorem setReg_fb (s : State) (r : Reg) (b : Byte) : (s.setReg r b).fb = s.fb := rfl
@[simp] theorem setReg_mem (s : State) (r : Reg) (b : Byte) : (s.setReg r b).mem = s.mem := rfl
@[simp] theorem setReg_params (s : State) (r : Reg) (b : Byte) : (s.setReg r b).params = s.params := rfl
@[simp] theorem setReg_rnd (s : State) (r : Reg) (b : Byte) : (s.setReg r b).rnd = s.rnd := rfl
@[simp] theorem setReg_draws (s : State) (r : Reg) (b : Byte) : (s.setReg r b).draws = s.draws := rfl
@[simp] theorem setReg_events (s : State) (r : Reg) (b : Byte) : (s.setReg r b).events = s.events := rfl

/-! ### `setPc` -/

@[simp] theorem setPc_v (s : State) (a : Word) : (s.setPc a).v = s.v := rfl
@[simp] theorem setPc_pc (s : State) (a : Word) : (s.setPc a).pc = a := rfl
@[simp] theorem setPc_I (s : State) (a : Word) : (s.setPc a).I = s.I := rfl
@[simp] theorem setPc_sp (s : State) (a : Word) : (s.setPc a).sp = s.sp := rfl
@[simp] theorem setPc_stack (s : State) (a : Word) : (s.setPc a).stack = s.stack := rfl
@[simp] theorem setPc_DT (s : State) (a : Word) : (s.setPc a).DT = s.DT := rfl
@[simp] theorem setPc_ST (s : State) (a : Word) : (s.setPc a).ST = s.ST := rfl
@[simp] theorem setPc_KM (s : State) (a : Word) : (s.setPc a).KM = s.KM := rfl
@[simp] theorem setPc_KP (s : State) (a : Word) : (s.setPc a).KP = s.KP := rfl
@[simp] theorem setPc_fb (s : State) (a : Word) : (s.setPc a).fb = s.fb := rfl
@[simp] theorem setPc_mem (s : State) (a : Word) : (s.setPc a).mem = s.mem := rfl
@[simp] theorem setPc_params (s : State) (a : Word) : (s.setPc a).params = s.params := rfl
@[simp] theorem setPc_rnd (s : State) (a : Word) : (s.setPc a).rnd = s.rnd := rfl
@[simp] theorem setPc_draws (s : State) (a : Word) : (s.setPc a).draws = s.draws := rfl
@[simp] theorem setPc_events (s : State) (a : Word) : (s.setPc a).events = s.events := rfl
@[simp] theorem reg_setPc (s : State) (a : Word) (r : Reg) : (s.setPc a).reg r = s.reg r := rfl

/-! ### `setI` -/

@[simp] theorem setI_v (s : State) (a : Word) : (s.setI a).v = s.v := rfl
@[simp] theorem setI_pc (s : State) (a : Word) : (s.setI a).pc = s.pc := rfl
@[simp] theorem setI_I (s : State) (a : Word) : (s.setI a).I = a := rfl
@[simp] theorem setI_sp (s : State) (a : Word) : (s.setI a).sp = s.sp := rfl
@[simp] theorem setI_stack (s : State) (a : Word) : (s.setI a).stack = s.stack := rfl
@[simp] theorem setI_DT (s : State) (a : Word) : (s.setI a).DT = s.DT := rfl
@[simp] theorem setI_ST (s : State) (a : Word) : (s.setI a).ST = s.ST := rfl
@[simp] theorem setI_KM (s : State) (a : Word) : (s.setI a).KM = s.KM := rfl
@[simp] theorem setI_KP (s : State) (a : Word) : (s.setI a).KP = s.KP := rfl
@[simp] theorem setI_fb (s : State) (a : Word) : (s.setI a).fb = s.fb := rfl
@[simp] theorem setI_mem (s : State) (a : Word) : (s.setI a).mem = s.mem := rfl
@[simp] theorem setI_params (s : State) (a : Word) : (s.setI a).params = s.params := rfl
@[simp] theorem setI_rnd (s : State) (a : Word) : (s.setI a).rnd = s.rnd := rfl
@[simp] theorem setI_draws (s : State) (a : Word) : (s.setI a).draws = s.draws := rfl
@[simp] theorem setI_events (s : State) (a : Word) : (s.setI a).events = s.events := rfl
@[simp] theorem reg_setI (s : State) (a : Word) (r : Reg) : (s.setI a).reg r = s.reg r := rfl

/-! ### `setDT` -/

@[simp] theorem setDT_v (s : State) (b : Byte) : (s.setDT b).v = s.v := rfl
@[simp] theorem setDT_pc (s : State) (b : Byte) : (s.setDT b).pc = s.pc := rfl
@[simp] theorem setDT_I (s : State) (b : Byte) : (s.setDT b).I = s.I := rfl
@[simp] theorem setDT_sp (s : State) (b : Byte) : (s.setDT b).sp = s.sp := rfl
@[simp] theorem setDT_stack (s : State) (b : Byte) : (s.setDT b).stack = s.stack := rfl
@[simp] theorem setDT_DT (s : State) (b : Byte) : (s.setDT b).DT = b := rfl
@[simp] theorem setDT_ST (s : State) (b : Byte) : (s.setDT b).ST = s.ST := rfl
@[simp] theorem setDT_KM (s : State) (b : Byte) : (s.setDT b).KM = s.KM := rfl
@[simp] theorem setDT_KP (s : State) (b : Byte) : (s.setDT b).KP = s.KP := rfl
@[simp] theorem setDT_fb (s : State) (b : Byte) : (s.setDT b).fb = s.fb := rfl
@[simp] theorem setDT_mem (s : State) (b : Byte) : (s.setDT b).mem = s.mem := rfl
@[simp] theorem setDT_params (s : State) (b : Byte) : (s.setDT b).params = s.params := rfl
@[simp] theorem setDT_rnd (s : State) (b : Byte) : (s.setDT b).rnd = s.rnd := rfl
@[simp] theorem setDT_draws (s : State) (b : Byte) : (s.setDT b).draws = s.draws := rfl
@[simp] theorem setDT_events (s : State) (b : Byte) : (s.setDT b).events = s.events := rfl
@[simp] theorem reg_setDT (s : State) (b : Byte) (r : Reg) : (s.setDT b).reg r = s.reg r := rfl

/-! ### `setST` -/

@[simp] theorem setST_v (s : State) (b : Byte) : (s.setST b).v = s.v := rfl
@[simp] theorem setST_pc (s : State) (b : Byte) : (s.setST b).pc = s.pc := rfl
@[simp] theorem setST_I (s : State) (b : Byte) : (s.setST b).I = s.I := rfl
@[simp] theorem setST_sp (s : State) (b : Byte) : (s.setST b).sp = s.sp := rfl
@[simp] theorem setST_stack (s : State) (b : Byte) : (s.setST b).stack = s.stack := rfl
@[simp] theorem setST_DT (s : State) (b : Byte) : (s.setST b).DT = s.DT := rfl
@[simp] theorem setST_ST (s : State) (b : Byte) : (s.setST b).ST = b := rfl
@[simp] theorem setST_KM (s : State) (b : Byte) : (s.setST b).KM = s.KM := rfl
@[simp] theorem setST_KP (s : State) (b : Byte) : (s.setST b).KP = s.KP := rfl
@[simp] theorem setST_fb (s : State) (b : Byte) : (s.setST b).fb = s.fb := rfl
@[simp] theorem setST_mem (s : State) (b : Byte) : (s.setST b).mem = s.mem := rfl
@[simp] theorem setST_params (s : State) (b : Byte) : (s.setST b).params = s.params := rfl
@[simp] theorem setST_rnd (s : State) (b : Byte) : (s.setST b).rnd = s.rnd := rfl
@[simp] theorem setST_draws (s : State) (b : Byte) : (s.setST b).draws = s.draws := rfl
@[simp] theorem setST_events (s : State) (b : Byte) : (s.setST b).events = s.events := rfl
@[simp] theorem reg_setST (s : State) (b : Byte) (r : Reg) : (s.setST b).reg r = s.reg r := rfl

/-! ### `setKM` -/

@[simp] theorem setKM_v (s : State) (m : Word) : (s.setKM m).v = s.v := rfl
@[simp] theorem setKM_pc (s : State) (m : Word) : (s.setKM m).pc = s.pc := rfl
@[simp] theorem setKM_I (s : State) (m : Word) : (s.setKM m).I = s.I := rfl
@[simp] theorem setKM_sp (s : State) (m : Word) : (s.setKM m).sp = s.sp := rfl
@[simp] theorem setKM_stack (s : State) (m : Word) : (s.setKM m).stack = s.stack := rfl
@[simp] theorem setKM_DT (s : State) (m : Word) : (s.setKM m).DT = s.DT := rfl
@[simp] theorem setKM_ST (s : State) (m : Word) : (s.setKM m).ST = s.ST := rfl
@[simp] theorem setKM_KM (s : State) (m : Word) : (s.setKM m).KM = m := rfl
@[simp] theorem setKM_KP (s : State) (m : Word) : (s.setKM m).KP = s.KP := rfl
@[simp] theorem setKM_fb (s : State) (m : Word) : (s.setKM m).fb = s.fb := rfl
@[simp] theorem setKM_mem (s : State) (m : Word) : (s.setKM m).mem = s.mem := rfl
@[simp] theorem setKM_params (s : State) (m : Word) : (s.setKM m).params = s.params := rfl
@[simp] theorem setKM_rnd (s : State) (m : Word) : (s.setKM m).rnd = s.rnd := rfl
@[simp] theorem setKM_draws (s : State) (m : Word) : (s.setKM m).draws = s.draws := rfl
@[simp] theorem setKM_events (s : State) (m : Word) : (s.setKM m).events = s.events := rfl
@[simp] theorem reg_setKM (s : State) (m : Word) (r : Reg) : (s.setKM m).reg r = s.reg r := rfl

/-! ### `setFb` -/

@[simp] theorem setFb_v (s : State) (fb : Framebuffer) : (s.setFb fb).v = s.v := rfl
@[simp] theorem setFb_pc (s : State) (fb : Framebuffer) : (s.setFb fb).pc = s.pc := rfl
@[simp] theorem setFb_I (s : State) (fb : Framebuffer) : (s.setFb fb).I = s.I := rfl
@[simp] theorem setFb_sp (s : State) (fb : Framebuffer) : (s.setFb fb).sp = s.sp := rfl
@[simp] theorem setFb_stack (s : State) (fb : Framebuffer) : (s.setFb fb).stack = s.stack := rfl
@[simp] theorem setFb_DT (s : State) (fb : Framebuffer) : (s.setFb fb).DT = s.DT := rfl
@[simp] theorem setFb_ST (s : State) (fb : Framebuffer) : (s.setFb fb).ST = s.ST := rfl
@[simp] theorem setFb_KM (s : State) (fb : Framebuffer) : (s.setFb fb).KM = s.KM := rfl
@[simp] theorem setFb_KP (s : State) (fb : Framebuffer) : (s.setFb fb).KP = s.KP := rfl
@[simp] theorem setFb_fb (s : State) (fb : Framebuffer) : (s.setFb fb).fb = fb := rfl
@[simp] theorem setFb_mem (s : State) (fb : Framebuffer) : (s.setFb fb).mem = s.mem := rfl
@[simp] theorem setFb_params (s : State) (fb : Framebuffer) : (s.setFb fb).params = s.params := rfl
@[simp] theorem setFb_rnd (s : State) (fb : Framebuffer) : (s.setFb fb).rnd = s.rnd := rfl
@[simp] theorem setFb_draws (s : State) (fb : Framebuffer) : (s.setFb fb).draws = s.draws := rfl
@[simp] theorem setFb_events (s : State) (fb : Framebuffer) : (s.setFb fb).events = s.events := rfl
@[simp] theorem reg_setFb (s : State) (fb : Framebuffer) (r : Reg) : (s.setFb fb).reg r = s.reg r := rfl

/-! ### `setMem` -/

@[simp] theorem setMem_v (s : State) (m : Memory) : (s.setMem m).v = s.v := rfl
@[simp] theorem setMem_pc (s : State) (m : Memory) : (s.setMem m).pc = s.pc := rfl
@[simp] theorem setMem_I (s : State) (m : Memory) : (s.setMem m).I = s.I := rfl
@[simp] theorem setMem_sp (s : State) (m : Memory) : (s.setMem m).sp = s.sp := rfl
@[simp] theorem setMem_stack (s : State) (m : Memory) : (s.setMem m).stack = s.stack := rfl
@[simp] theorem setMem_DT (s : State) (m : Memory) : (s.setMem m).DT = s.DT := rfl
@[simp] theorem setMem_ST (s : State) (m : Memory) : (s.setMem m).ST = s.ST := rfl
@[simp] theorem setMem_KM (s : State) (m : Memory) : (s.setMem m).KM = s.KM := rfl
@[simp] theorem setMem_KP (s : State) (m : Memory) : (s.setMem m).KP = s.KP := rfl
@[simp] theorem setMem_fb (s : State) (m : Memory) : (s.setMem m).fb = s.fb := rfl
@[simp] theorem setMem_mem (s : State) (m : Memory) : (s.setMem m).mem = m := rfl
@[simp] theorem setMem_params (s : State) (m : Memory) : (s.setMem m).params = s.params := rfl
@[simp] theorem setMem_rnd (s : State) (m : Memory) : (s.setMem m).rnd = s.rnd := rfl
@[simp] theorem setMem_draws (s : State) (m : Memory) : (s.setMem m).draws = s.draws := rfl
@[simp] theorem setMem_events (s : State) (m : Memory) : (s.setMem m).events = s.events := rfl
@[simp] theorem reg_setMem (s : State) (m : Memory) (r : Reg) : (s.setMem m).reg r = s.reg r := rfl

/-! ### `emit` -/

@[simp] theorem emit_v (s : State) (e : Event) : (s.emit e).v = s.v := rfl
@[simp] theorem emit_pc (s : State) (e : Event) : (s.emit e).pc = s.pc := rfl
@[simp] theorem emit_I (s : State) (e : Event) : (s.emit e).I = s.I := rfl
@[simp] theorem emit_sp (s : State) (e : Event) : (s.emit e).sp = s.sp := rfl
@[simp] theorem emit_stack (s : State) (e : Event) : (s.emit e).stack = s.stack := rfl
@[simp] theorem emit_DT (s : State) (e : Event) : (s.emit e).DT = s.DT := rfl
@[simp] theorem emit_ST (s : State) (e : Event) : (s.emit e).ST = s.ST := rfl
@[simp] theorem emit_KM (s : State) (e : Event) : (s.emit e).KM = s.KM := rfl
@[simp] theorem emit_KP (s : State) (e : Event) : (s.emit e).KP = s.KP := rfl
@[simp] theorem emit_fb (s : State) (e : Event) : (s.emit e).fb = s.fb := rfl
@[simp] theorem emit_mem (s : State) (e : Event) : (s.emit e).mem = s.mem := rfl
@[simp] theorem emit_params (s : State) (e : Event) : (s.emit e).params = s.params := rfl
@[simp] theorem emit_rnd (s : State) (e : Event) : (s.emit e).rnd = s.rnd := rfl
@[simp] theorem emit_draws (s : State) (e : Event) : (s.emit e).draws = s.draws := rfl
@[simp] theorem emit_events (s : State) (e : Event) : (s.emit e).events = s.events ++ [e] := rfl
@[simp] theorem reg_emit (s : State) (e : Event) (r : Reg) : (s.emit e).reg r = s.reg r := rfl

/-! ### `push` -/

@[simp] theorem push_v (s : State) (a : Word) : (s.push a).v = s.v := rfl
@[simp] theorem push_pc (s : State) (a : Word) : (s.push a).pc = s.pc := rfl
@[simp] theorem push_I (s : State) (a : Word) : (s.push a).I = s.I := rfl
@[simp] theorem push_sp (s : State) (a : Word) : (s.push a).sp = s.sp + 1 := rfl
@[simp] theorem push_stack (s : State) (a : Word) : (s.push a).stack = s.stack.set s.sp.val a := rfl
@[simp] theorem push_DT (s : State) (a : Word) : (s.push a).DT = s.DT := rfl
@[simp] theorem push_ST (s : State) (a : Word) : (s.push a).ST = s.ST := rfl
@[simp] theorem push_KM (s : State) (a : Word) : (s.push a).KM = s.KM := rfl
@[simp] theorem push_KP (s : State) (a : Word) : (s.push a).KP = s.KP := rfl
@[simp] theorem push_fb (s : State) (a : Word) : (s.push a).fb = s.fb := rfl
@[simp] theorem push_mem (s : State) (a : Word) : (s.push a).mem = s.mem := rfl
@[simp] theorem push_params (s : State) (a : Word) : (s.push a).params = s.params := rfl
@[simp] theorem push_rnd (s : State) (a : Word) : (s.push a).rnd = s.rnd := rfl
@[simp] theorem push_draws (s : State) (a : Word) : (s.push a).draws = s.draws := rfl
@[simp] theorem push_events (s : State) (a : Word) : (s.push a).events = s.events := rfl
@[simp] theorem reg_push (s : State) (a : Word) (r : Reg) : (s.push a).reg r = s.reg r := rfl

/-! ### `popped` -/

@[simp] theorem popped_v (s : State) : (s.popped).v = s.v := rfl
@[simp] theorem popped_pc (s : State) : (s.popped).pc = s.pc := rfl
@[simp] theorem popped_I (s : State) : (s.popped).I = s.I := rfl
@[simp] theorem popped_sp (s : State) : (s.popped).sp = popSlot s.params.stackUnderflow s.sp := rfl
@[simp] theorem popped_stack (s : State) : (s.popped).stack = s.stack := rfl
@[simp] theorem popped_DT (s : State) : (s.popped).DT = s.DT := rfl
@[simp] theorem popped_ST (s : State) : (s.popped).ST = s.ST := rfl
@[simp] theorem popped_KM (s : State) : (s.popped).KM = s.KM := rfl
@[simp] theorem popped_KP (s : State) : (s.popped).KP = s.KP := rfl
@[simp] theorem popped_fb (s : State) : (s.popped).fb = s.fb := rfl
@[simp] theorem popped_mem (s : State) : (s.popped).mem = s.mem := rfl
@[simp] theorem popped_params (s : State) : (s.popped).params = s.params := rfl
@[simp] theorem popped_rnd (s : State) : (s.popped).rnd = s.rnd := rfl
@[simp] theorem popped_draws (s : State) : (s.popped).draws = s.draws := rfl
@[simp] theorem popped_events (s : State) : (s.popped).events = s.events := rfl
@[simp] theorem reg_popped (s : State) (r : Reg) : (s.popped).reg r = s.reg r := rfl

/-! ### `countDraw` -/

@[simp] theorem countDraw_v (s : State) : (s.countDraw).v = s.v := rfl
@[simp] theorem countDraw_pc (s : State) : (s.countDraw).pc = s.pc := rfl
@[simp] theorem countDraw_I (s : State) : (s.countDraw).I = s.I := rfl
@[simp] theorem countDraw_sp (s : State) : (s.countDraw).sp = s.sp := rfl
@[simp] theorem countDraw_stack (s : State) : (s.countDraw).stack = s.stack := rfl
@[simp] theorem countDraw_DT (s : State) : (s.countDraw).DT = s.DT := rfl
@[simp] theorem countDraw_ST (s : State) : (s.countDraw).ST = s.ST := rfl
@[simp] theorem countDraw_KM (s : State) : (s.countDraw).KM = s.KM := rfl
@[simp] theorem countDraw_KP (s : State) : (s.countDraw).KP = s.KP := rfl
@[simp] theorem countDraw_fb (s : State) : (s.countDraw).fb = s.fb := rfl
@[simp] theorem countDraw_mem (s : State) : (s.countDraw).mem = s.mem := rfl
@[simp] theorem countDraw_params (s : State) : (s.countDraw).params = s.params := rfl
@[simp] theorem countDraw_rnd (s : State) : (s.countDraw).rnd = s.rnd := rfl
@[simp] theorem countDraw_draws (s : State) : (s.countDraw).draws = s.draws + 1 := rfl
@[simp] theorem countDraw_events (s : State) : (s.countDraw).events = s.events := rfl
@[simp] theorem reg_countDraw (s : State) (r : Reg) : (s.countDraw).reg r = s.reg r := rfl

/-! ### Registers -/

@[simp] theorem reg_setReg_same (s : State) (r : Reg) (b : Byte) : (s.setReg r b).reg r = b := by
  simp [reg, setReg]

theorem reg_setReg (s : State) (r q : Reg) (b : Byte) :
    (s.setReg r b).reg q = if q = r then b else s.reg q := by
  by_cases h : q = r
  · simp [h]
  · have : r.val ≠ q.val := fun e => h (Fin.ext e.symm)
    simp [reg, setReg, h, this]

theorem reg_setReg_ne (s : State) {r q : Reg} (b : Byte) (h : q ≠ r) : (s.setReg r b).reg q = s.reg q := by
  rw [reg_setReg, if_neg h]

/-- A result and a flag: `VF` holds the flag, `VX` the result unless it is `VF`, every other register stays (R21). -/
theorem reg_setRegFlag (s : State) (x q : Reg) (result flag : Byte) :
    (s.setRegFlag x result flag).reg q = if q = regF then flag else if q = x then result else s.reg q := by
  simp only [setRegFlag, reg_setReg]

@[simp] theorem setRegFlag_pc (s : State) (x : Reg) (b c : Byte) : (s.setRegFlag x b c).pc = s.pc := rfl
@[simp] theorem setRegFlag_I (s : State) (x : Reg) (b c : Byte) : (s.setRegFlag x b c).I = s.I := rfl
@[simp] theorem setRegFlag_sp (s : State) (x : Reg) (b c : Byte) : (s.setRegFlag x b c).sp = s.sp := rfl
@[simp] theorem setRegFlag_stack (s : State) (x : Reg) (b c : Byte) : (s.setRegFlag x b c).stack = s.stack := rfl
@[simp] theorem setRegFlag_DT (s : State) (x : Reg) (b c : Byte) : (s.setRegFlag x b c).DT = s.DT := rfl
@[simp] theorem setRegFlag_ST (s : State) (x : Reg) (b c : Byte) : (s.setRegFlag x b c).ST = s.ST := rfl
@[simp] theorem setRegFlag_KM (s : State) (x : Reg) (b c : Byte) : (s.setRegFlag x b c).KM = s.KM := rfl
@[simp] theorem setRegFlag_KP (s : State) (x : Reg) (b c : Byte) : (s.setRegFlag x b c).KP = s.KP := rfl
@[simp] theorem setRegFlag_fb (s : State) (x : Reg) (b c : Byte) : (s.setRegFlag x b c).fb = s.fb := rfl
@[simp] theorem setRegFlag_mem (s : State) (x : Reg) (b c : Byte) : (s.setRegFlag x b c).mem = s.mem := rfl
@[simp] theorem setRegFlag_params (s : State) (x : Reg) (b c : Byte) : (s.setRegFlag x b c).params = s.params := rfl
@[simp] theorem setRegFlag_rnd (s : State) (x : Reg) (b c : Byte) : (s.setRegFlag x b c).rnd = s.rnd := rfl
@[simp] theorem setRegFlag_draws (s : State) (x : Reg) (b c : Byte) : (s.setRegFlag x b c).draws = s.draws := rfl
@[simp] theorem setRegFlag_events (s : State) (x : Reg) (b c : Byte) : (s.setRegFlag x b c).events = s.events := rfl

/-! ### A list of register writes -/

@[simp] theorem setRegs_pc (s : State) (l : List (Reg × Byte)) : (s.setRegs l).pc = s.pc := by
  induction l generalizing s with
  | nil => rfl
  | cons p l ih => exact (ih _).trans rfl
@[simp] theorem setRegs_I (s : State) (l : List (Reg × Byte)) : (s.setRegs l).I = s.I := by
  induction l generalizing s with
  | nil => rfl
  | cons p l ih => exact (ih _).trans rfl
@[simp] theorem setRegs_sp (s : State) (l : List (Reg × Byte)) : (s.setRegs l).sp = s.sp := by
  induction l generalizing s with
  | nil => rfl
  | cons p l ih => exact (ih _).trans rfl
@[simp] theorem setRegs_stack (s : State) (l : List (Reg × Byte)) : (s.setRegs l).stack = s.stack := by
  induction l generalizing s with
  | nil => rfl
  | cons p l ih => exact (ih _).trans rfl
@[simp] theorem setRegs_DT (s : State) (l : List (Reg × Byte)) : (s.setRegs l).DT = s.DT := by
  induction l generalizing s with
  | nil => rfl
  | cons p l ih => exact (ih _).trans rfl
@[simp] theorem setRegs_ST (s : State) (l : List (Reg × Byte)) : (s.setRegs l).ST = s.ST := by
  induction l generalizing s with
  | nil => rfl
  | cons p l ih => exact (ih _).trans rfl
@[simp] theorem setRegs_KM (s : State) (l : List (Reg × Byte)) : (s.setRegs l).KM = s.KM := by
  induction l generalizing s with
  | nil => rfl
  | cons p l ih => exact (ih _).trans rfl
@[simp] theorem setRegs_KP (s : State) (l : List (Reg × Byte)) : (s.setRegs l).KP = s.KP := by
  induction l generalizing s with
  | nil => rfl
  | cons p l ih => exact (ih _).trans rfl
@[simp] theorem setRegs_fb (s : State) (l : List (Reg × Byte)) : (s.setRegs l).fb = s.fb := by
  induction l generalizing s with
  | nil => rfl
  | cons p l ih => exact (ih _).trans rfl
@[simp] theorem setRegs_mem (s : State) (l : List (Reg × Byte)) : (s.setRegs l).mem = s.mem := by
  induction l generalizing s with
  | nil => rfl
  | cons p l ih => exact (ih _).trans rfl
@[simp] theorem setRegs_params (s : State) (l : List (Reg × Byte)) : (s.setRegs l).params = s.params := by
  induction l generalizing s with
  | nil => rfl
  | cons p l ih => exact (ih _).trans rfl
@[simp] theorem setRegs_rnd (s : State) (l : List (Reg × Byte)) : (s.setRegs l).rnd = s.rnd := by
  induction l generalizing s with
  | nil => rfl
  | cons p l ih => exact (ih _).trans rfl
@[simp] theorem setRegs_draws (s : State) (l : List (Reg × Byte)) : (s.setRegs l).draws = s.draws := by
  induction l generalizing s with
  | nil => rfl
  | cons p l ih => exact (ih _).trans rfl
@[simp] theorem setRegs_events (s : State) (l : List (Reg × Byte)) : (s.setRegs l).events = s.events := by
  induction l generalizing s with
  | nil => rfl
  | cons p l ih => exact (ih _).trans rfl

theorem reg_setRegs_of_not_mem (s : State) (l : List (Reg × Byte)) (q : Reg) (h : ∀ p ∈ l, p.1 ≠ q) :
    (s.setRegs l).reg q = s.reg q := by
  induction l generalizing s with
  | nil => rfl
  | cons p l ih =>
    rw [setRegs, ih _ fun p' hp => h p' (List.mem_cons_of_mem _ hp)]
    exact reg_setReg_ne s _ (h p List.mem_cons_self).symm

theorem reg_setRegs_of_mem (s : State) (l : List (Reg × Byte)) (hn : (l.map (·.1)).Nodup) {q : Reg} {b : Byte}
    (h : (q, b) ∈ l) : (s.setRegs l).reg q = b := by
  induction l generalizing s with
  | nil => cases h
  | cons p l ih =>
    simp only [List.map_cons, List.nodup_cons, List.mem_map, not_exists, not_and] at hn
    rcases List.mem_cons.1 h with rfl | h
    · rw [setRegs, reg_setRegs_of_not_mem _ _ _ fun p' hp => hn.1 p' hp, reg_setReg_same]
    · exact ih _ hn.2 h

/-! ### Conditional updates -/

/-- Everything a skip can do: `pc + 2` or nothing. -/
theorem skipIf_eq (s : State) (c : Bool) : s.skipIf c = s.setPc (if c then s.pc + 2 else s.pc) := by
  cases c <;> rfl

/-- Everything a query clear can do: `KM` becomes 0 under AUTO_CLEAR. -/
theorem queryClear_eq (s : State) : s.queryClear = s.setKM (if s.KP = .autoClear then 0 else s.KM) := by
  unfold queryClear; cases h : s.KP <;> rfl

end Sys2Proof.Machine.State
end

