-- ==== Sys2Proof/Laws/Ops.lean ====
section
/-! SUPPORT. One lemma per shared operation that says everything it can do. -/

namespace Sys2Proof.Machine

/-! ### Accesses -/

theorem wrapAddr_lt (a : Nat) : wrapAddr a < Config.memSize := Nat.mod_lt _ (by decide)

theorem wrapAddr_of_lt {a : Nat} (h : a < Config.memSize) : wrapAddr a = a := Nat.mod_eq_of_lt h

/-- `maddr` wraps, or faults on an address that is out of range under FAULT (R51). -/
theorem maddr_eq (mode : AddrOob) (pcI : Word) (a : Nat) :
    maddr mode pcI a = match firstOutOfRange mode [a] with
      | none => .ok (wrapAddr a)
      | some b => .error (.addressOutOfRange b pcI) := by
  cases mode <;> by_cases h : a < Config.memSize <;>
    simp [maddr, firstOutOfRange, h, wrapAddr_of_lt, Nat.not_le.2, Nat.not_lt.1]

theorem firstOutOfRange_cons (mode : AddrOob) (a : Nat) (as : List Nat) :
    firstOutOfRange mode (a :: as) = (firstOutOfRange mode [a]).or (firstOutOfRange mode as) := by
  cases mode
  · rfl
  · by_cases h : Config.memSize ≤ a <;> simp [firstOutOfRange, h, -List.find?_singleton]

theorem firstOutOfRange_singleton {mode : AddrOob} {a b : Nat} (h : firstOutOfRange mode [a] = some b) : b = a := by
  cases mode
  · cases h
  · by_cases h' : Config.memSize ≤ a <;> simp_all [firstOutOfRange]

@[simp] theorem firstOutOfRange_nil (mode : AddrOob) : firstOutOfRange mode [] = none := by cases mode <;> rfl

@[simp] theorem firstOutOfRange_wrap (as : List Nat) : firstOutOfRange .wrap as = none := rfl

theorem firstOutOfRange_eq_none {mode : AddrOob} {as : List Nat} :
    firstOutOfRange mode as = none ↔ mode = .wrap ∨ ∀ a ∈ as, a < Config.memSize := by
  cases mode <;> simp [firstOutOfRange]

theorem memRead_eq (pcI : Word) (s : State) (a : Nat) :
    memRead pcI s a = match firstOutOfRange s.params.addrOob [a] with
      | none => .ok (s.mem.read (wrapAddr a))
      | some b => .error (.addressOutOfRange b pcI) := by
  rw [memRead, maddr_eq]; cases firstOutOfRange s.params.addrOob [a] <;> rfl

/-- Reads in order: every byte, or the first address out of range (R211). -/
theorem memReadAll_eq (pcI : Word) (s : State) (as : List Nat) :
    memReadAll pcI s as = match firstOutOfRange s.params.addrOob as with
      | none => .ok (as.map fun a => s.mem.read (wrapAddr a))
      | some b => .error (.addressOutOfRange b pcI) := by
  induction as with
  | nil => simp [memReadAll]
  | cons a as ih =>
    rw [memReadAll, memRead_eq, firstOutOfRange_cons _ a as]
    cases firstOutOfRange s.params.addrOob [a] with
    | some b => rfl
    | none =>
      simp only [ih, Option.none_or]
      cases firstOutOfRange s.params.addrOob as <;> rfl

/-- The addresses of a list of stores, wrapped into the array. -/
def wrapStores (l : List (Nat × Byte)) : List (Nat × Byte) := l.map fun p => (wrapAddr p.1, p.2)

theorem wrapStores_lt (l : List (Nat × Byte)) : ∀ p ∈ wrapStores l, p.1 < Config.memSize := by
  simp only [wrapStores, List.mem_map]
  rintro _ ⟨p, -, rfl⟩
  exact wrapAddr_lt _

/-- Writes in order: every byte stored and nothing else changed, or the first address out of range (R211). -/
theorem memWriteAll_eq (pcI : Word) (s : State) (l : List (Nat × Byte)) :
    memWriteAll pcI s l = match firstOutOfRange s.params.addrOob (l.map (·.1)) with
      | none => .ok (s.setMem (s.mem.writeAll (wrapStores l)))
      | some b => .error (.addressOutOfRange b pcI) := by
  induction l generalizing s with
  | nil => simp [memWriteAll, wrapStores, Memory.writeAll, State.setMem]
  | cons p l ih =>
    rw [memWriteAll, memWrite, maddr_eq, List.map_cons, firstOutOfRange_cons _ p.1 (l.map (·.1))]
    cases firstOutOfRange s.params.addrOob [p.1] with
    | some b => rfl
    | none =>
      simp only [ih, Option.none_or, State.setMem_params]
      cases firstOutOfRange s.params.addrOob (l.map (·.1)) <;> rfl

theorem outcomeOf_next {e : Except Fault State} {t : State} (h : outcomeOf e = .next t) : e = .ok t := by
  cases e <;> simp_all [outcomeOf]

/-! ### The registers `V0` to `VX` -/

theorem mem_regsUpTo {x k : Reg} : k ∈ regsUpTo x ↔ k.val ≤ x.val := by
  revert x k; decide

theorem nodup_regsUpTo (x : Reg) : (regsUpTo x).Nodup := by
  revert x; decide

theorem regsUpTo_map_val (x : Reg) : (regsUpTo x).map (·.val) = List.range (x.val + 1) := by
  revert x; decide

theorem registerLoads_eq (s : State) (x : Reg) :
    registerLoads s x = (List.range (x.val + 1)).map (s.I.toNat + ·) := by
  rw [← regsUpTo_map_val, List.map_map]; rfl

theorem registerStores_addrs (s : State) (x : Reg) :
    (registerStores s x).map (·.1) = (List.range (x.val + 1)).map (s.I.toNat + ·) := by
  rw [← registerLoads_eq, registerStores, List.map_map]; rfl

/-- Sixteen or fewer consecutive addresses stay apart when they wrap. -/
theorem wrapAddr_add_inj {a : Nat} {j k : Reg} (h : wrapAddr (a + j.val) = wrapAddr (a + k.val)) : j = k := by
  have := j.isLt; have := k.isLt
  simp only [wrapAddr, Config.memSize] at h
  exact Fin.ext (by omega)

/-! ### The stack -/

theorem popSlot_push {mode : StackUnderflow} {sp : Fin 16} (h : mode = .wrapTo15 ∨ sp ≠ 15) :
    popSlot mode (sp + 1) = sp := by
  revert h; cases mode <;> revert sp <;> decide

/-- A pop after a push returns the pushed value and the old `sp`, unless `sp` stood at 15 under HOLD_AT_0 (R124 to
R126). -/
theorem pop_push (s : State) (a : Word) (h : s.params.stackUnderflow = .wrapTo15 ∨ s.sp ≠ 15) :
    (s.push a).popValue = a ∧ (s.push a).popped.sp = s.sp := by
  simp [State.popValue, popSlot_push h]

/-! ### The cycle -/

/-- The fetch reads the two bytes at `pc`, high byte first, or faults (R53, R211). -/
theorem fetch_eq (s : State) :
    fetch s = match firstOutOfRange s.params.addrOob [s.pc.toNat, s.pc.toNat + 1] with
      | none => .ok (wordOfBytes (s.mem.read (wrapAddr s.pc.toNat)) (s.mem.read (wrapAddr (s.pc.toNat + 1))))
      | some b => .error (.addressOutOfRange b s.pc) := by
  rw [fetch, memRead_eq, memRead_eq, firstOutOfRange_cons _ s.pc.toNat [s.pc.toNat + 1]]
  cases firstOutOfRange s.params.addrOob [s.pc.toNat] with
  | some b => rfl
  | none => cases firstOutOfRange s.params.addrOob [s.pc.toNat + 1] <;> rfl

/-- Everything a step that goes on did (R101). -/
theorem step_next {s t : State} (h : step s = .next t) :
    ∃ w u, fetch s = .ok w ∧ exec (decodeWord w) (beginCycle s) = .next u ∧ t = endCycle u := by
  unfold step at h
  split at h
  · cases h
  · split at h
    · injection h with h
      exact ⟨_, _, ‹_›, ‹_›, h.symm⟩
    · cases h
    · cases h

theorem step_of_fetch {s : State} {w : Word} (h : fetch s = .ok w) :
    step s = match exec (decodeWord w) (beginCycle s) with
      | .next t => .next (endCycle t)
      | .fault f => .fault f
      | .refused r => .refused r := by
  cases e : exec (decodeWord w) (beginCycle s) <;> simp only [step, h, e]

@[simp] theorem beginCycle_v (s : State) : (beginCycle s).v = s.v := rfl
@[simp] theorem beginCycle_reg (s : State) (r : Reg) : (beginCycle s).reg r = s.reg r := rfl
@[simp] theorem beginCycle_pc (s : State) : (beginCycle s).pc = s.pc + 2 := rfl
@[simp] theorem beginCycle_I (s : State) : (beginCycle s).I = s.I := rfl
@[simp] theorem beginCycle_sp (s : State) : (beginCycle s).sp = s.sp := rfl
@[simp] theorem beginCycle_stack (s : State) : (beginCycle s).stack = s.stack := rfl
@[simp] theorem beginCycle_DT (s : State) : (beginCycle s).DT = s.DT := rfl
@[simp] theorem beginCycle_ST (s : State) : (beginCycle s).ST = s.ST := rfl
@[simp] theorem beginCycle_KM (s : State) : (beginCycle s).KM = s.KM := rfl
@[simp] theorem beginCycle_KP (s : State) : (beginCycle s).KP = s.KP := rfl
@[simp] theorem beginCycle_fb (s : State) : (beginCycle s).fb = s.fb := rfl
@[simp] theorem beginCycle_mem (s : State) : (beginCycle s).mem = s.mem := rfl
@[simp] theorem beginCycle_params (s : State) : (beginCycle s).params = s.params := rfl
@[simp] theorem beginCycle_rnd (s : State) : (beginCycle s).rnd = s.rnd := rfl
@[simp] theorem beginCycle_draws (s : State) : (beginCycle s).draws = s.draws := rfl
@[simp] theorem beginCycle_events (s : State) : (beginCycle s).events = [] := rfl

@[simp] theorem instrPc_beginCycle (s : State) : (beginCycle s).instrPc = s.pc := by
  simp [State.instrPc]

/-- Everything a tick and the CYCLE event do (R106, R107, R109): only the timers, the event list and the step's random
byte change. -/
theorem endCycle_eq (s : State) :
    endCycle s = { s with
      DT := tickDown s.DT, ST := tickDown s.ST, rnd := none,
      events := s.events ++ (if s.ST = 1 then [.beep] else []) ++ [.cycle] } := by
  unfold endCycle tick
  by_cases h : s.ST = 1
  · simp only [if_pos h]; rfl
  · simp only [if_neg h, List.append_nil]; rfl

@[simp] theorem endCycle_v (s : State) : (endCycle s).v = s.v := by rw [endCycle_eq]
@[simp] theorem endCycle_reg (s : State) (r : Reg) : (endCycle s).reg r = s.reg r := by rw [endCycle_eq]; rfl
@[simp] theorem endCycle_pc (s : State) : (endCycle s).pc = s.pc := by rw [endCycle_eq]
@[simp] theorem endCycle_I (s : State) : (endCycle s).I = s.I := by rw [endCycle_eq]
@[simp] theorem endCycle_sp (s : State) : (endCycle s).sp = s.sp := by rw [endCycle_eq]
@[simp] theorem endCycle_stack (s : State) : (endCycle s).stack = s.stack := by rw [endCycle_eq]
@[simp] theorem endCycle_DT (s : State) : (endCycle s).DT = tickDown s.DT := by rw [endCycle_eq]
@[simp] theorem endCycle_ST (s : State) : (endCycle s).ST = tickDown s.ST := by rw [endCycle_eq]
@[simp] theorem endCycle_KM (s : State) : (endCycle s).KM = s.KM := by rw [endCycle_eq]
@[simp] theorem endCycle_KP (s : State) : (endCycle s).KP = s.KP := by rw [endCycle_eq]
@[simp] theorem endCycle_fb (s : State) : (endCycle s).fb = s.fb := by rw [endCycle_eq]
@[simp] theorem endCycle_mem (s : State) : (endCycle s).mem = s.mem := by rw [endCycle_eq]
@[simp] theorem endCycle_params (s : State) : (endCycle s).params = s.params := by rw [endCycle_eq]
@[simp] theorem endCycle_rnd (s : State) : (endCycle s).rnd = none := rfl
@[simp] theorem endCycle_draws (s : State) : (endCycle s).draws = s.draws := by rw [endCycle_eq]
@[simp] theorem endCycle_events (s : State) :
    (endCycle s).events = s.events ++ (if s.ST = 1 then [.beep] else []) ++ [.cycle] := by rw [endCycle_eq]

/-- A decrement while nonzero, as a natural number (R106). -/
theorem tickDown_toNat (b : Byte) : (tickDown b).toNat = b.toNat - 1 := by
  unfold tickDown
  split
  · simp_all
  · have : b.toNat ≠ 0 := fun e => ‹¬b = 0› (BitVec.eq_of_toNat_eq e)
    bv_omega

/-- A placed word keeps the canonical form, and is what the next fetch reads where the fetch does not fault (log 6). -/
theorem placeWord_wf {s : State} (hm : s.mem.wf) (w : Word) : (placeWord s w).mem.wf :=
  Memory.wf_writeAll hm (by simp [bytesOfWord, wrapAddr_lt])

theorem fetch_placeWord {s : State} (hm : s.mem.wf) (w : Word)
    (h : firstOutOfRange s.params.addrOob [s.pc.toNat, s.pc.toNat + 1] = none) : fetch (placeWord s w) = .ok w := by
  have hl : ∀ p ∈ [wrapAddr s.pc.toNat, wrapAddr (s.pc.toNat + 1)].zip (bytesOfWord w), p.1 < Config.memSize := by
    simp [bytesOfWord, wrapAddr_lt]
  have hn : (([wrapAddr s.pc.toNat, wrapAddr (s.pc.toNat + 1)].zip (bytesOfWord w)).map (·.1)).Nodup := by
    simp [bytesOfWord, wrapAddr, Config.memSize]; omega
  rw [fetch_eq]
  simp only [placeWord, State.setMem_params, State.setMem_pc, State.setMem_mem, h,
    Memory.read_writeAll_of_mem hm hl hn (b := wrapAddr s.pc.toNat) (v := w.extractLsb' 8 8) (by simp [bytesOfWord]),
    Memory.read_writeAll_of_mem hm hl hn (b := wrapAddr (s.pc.toNat + 1)) (v := w.extractLsb' 0 8)
      (by simp [bytesOfWord]), wordOfBytes_bytesOfWord]

end Sys2Proof.Machine
end

