-- ==== Sys2Proof/Laws/Display.lean ====
section
/-! SUPPORT. What the sprite loops do, pixel by pixel, and what the collision detector answers (45_display.md). -/

namespace Sys2Proof.Machine

theorem Framebuffer.pixel_setPixel (fb : Framebuffer) (x x' : Fin 64) (y y' : Fin 32) (b : Bool) :
    (fb.setPixel x y b).pixel x' y' = if x' = x ∧ y' = y then b else fb.pixel x' y' := by
  unfold pixel setPixel
  rw [Vector.getElem_set]
  by_cases hy : y = y'
  · subst hy
    rw [if_pos rfl, Vector.getElem_set]
    by_cases hx : x = x'
    · subst hx; simp
    · have : x.val ≠ x'.val := fun e => hx (Fin.ext e)
      rw [if_neg this, if_neg fun h => hx h.1.symm]
  · have : y.val ≠ y'.val := fun e => hy (Fin.ext e)
    rw [if_neg this, if_neg fun h => hy h.2.symm]

@[simp] theorem Framebuffer.pixel_clear (x : Fin 64) (y : Fin 32) : Framebuffer.clear.pixel x y = false := by
  simp [pixel, clear]

/-- Two framebuffers with the same pixels are equal. -/
theorem Framebuffer.ext_pixel {fb fb' : Framebuffer} (h : ∀ x y, fb.pixel x y = fb'.pixel x y) : fb = fb' :=
  Vector.ext fun y hy => Vector.ext fun x hx => h ⟨x, hx⟩ ⟨y, hy⟩

/-- The pixels that the column loop draws (R184, R185): row `y`, columns `c` to `c + n - 1` of the sprite. -/
def litCols (b : Byte) (x0 : Nat) (y : Fin 32) (n c : Nat) (x : Fin 64) (y' : Fin 32) : Bool :=
  decide (y' = y) && decide (x0 + c ≤ x.val) && decide (x.val < x0 + c + n) && spriteBit b (x.val - x0)

/-- The column loop XORs exactly the drawn pixels. -/
theorem drawCols_pixel (b : Byte) (x0 : Nat) (y : Fin 32) (n c : Nat) (d : Framebuffer × Bool)
    (x : Fin 64) (y' : Fin 32) :
    (drawCols b x0 y n c d).1.pixel x y' = (d.1.pixel x y' ^^ litCols b x0 y n c x y') := by
  induction n generalizing c d with
  | zero =>
    have : litCols b x0 y 0 c x y' = false := by
      simp only [litCols, Bool.and_eq_false_iff, decide_eq_false_iff_not]; omega
    simp [drawCols, this]
  | succ n ih =>
    rw [drawCols]
    split
    · rename_i hc
      rw [ih]
      by_cases hx : x = ⟨x0 + c, hc⟩ ∧ y' = y
      · obtain ⟨rfl, rfl⟩ := hx
        have h1 : litCols b x0 y' n (c + 1) ⟨x0 + c, hc⟩ y' = false := by
          simp [litCols]
        have h2 : litCols b x0 y' (n + 1) c ⟨x0 + c, hc⟩ y' = spriteBit b c := by
          simp [litCols]
        rw [h1, h2]
        cases hb : spriteBit b c <;> simp [drawPixel, Framebuffer.pixel_setPixel]
      · have h1 : litCols b x0 y n (c + 1) x y' = litCols b x0 y (n + 1) c x y' := by
          by_cases hy : y' = y
          · have : x.val ≠ x0 + c := fun e => hx ⟨Fin.ext e, hy⟩
            have e1 : decide (x0 + (c + 1) ≤ x.val) = decide (x0 + c ≤ x.val) := decide_eq_decide.2 (by omega)
            have e2 : decide (x.val < x0 + (c + 1) + n) = decide (x.val < x0 + c + (n + 1)) :=
              decide_eq_decide.2 (by omega)
            rw [litCols, litCols, e1, e2]
          · simp [litCols, hy]
        rw [h1]
        congr 1
        split
        · rw [drawPixel, Framebuffer.pixel_setPixel, if_neg hx]
        · rfl
    · have : litCols b x0 y (n + 1) c x y' = false := by
        have := x.isLt
        have e : decide (x0 + c ≤ x.val) = false := decide_eq_false (by omega)
        rw [litCols, e]; simp
      simp [this]

/-- The column loop notes a collision exactly when a drawn pixel was lit (R183). -/
theorem drawCols_collision (b : Byte) (x0 : Nat) (y : Fin 32) (n c : Nat) (d : Framebuffer × Bool) :
    (drawCols b x0 y n c d).2 = true ↔ d.2 = true ∨ ∃ x, litCols b x0 y n c x y = true ∧ d.1.pixel x y = true := by
  induction n generalizing c d with
  | zero =>
    have : ∀ x, litCols b x0 y 0 c x y = false := fun x => by
      simp only [litCols, Bool.and_eq_false_iff, decide_eq_false_iff_not]; omega
    simp [drawCols, this]
  | succ n ih =>
    rw [drawCols]
    split
    · rename_i hc
      rw [ih]
      have hlit (x : Fin 64) : litCols b x0 y (n + 1) c x y = true ↔
          (x = ⟨x0 + c, hc⟩ ∧ spriteBit b c = true) ∨ litCols b x0 y n (c + 1) x y = true := by
        by_cases hx : x = ⟨x0 + c, hc⟩
        · subst hx; simp [litCols]
        · have : x.val ≠ x0 + c := fun e => hx (Fin.ext e)
          have e1 : decide (x0 + (c + 1) ≤ x.val) = decide (x0 + c ≤ x.val) := decide_eq_decide.2 (by omega)
          have e2 : decide (x.val < x0 + (c + 1) + n) = decide (x.val < x0 + c + (n + 1)) :=
            decide_eq_decide.2 (by omega)
          simp only [litCols, e1, e2, hx, false_and, false_or]
      have hfar (x : Fin 64) (h : litCols b x0 y n (c + 1) x y = true) : x ≠ ⟨x0 + c, hc⟩ := by
        rintro rfl; simp [litCols] at h
      simp only [hlit]
      cases hb : spriteBit b c with
      | false => simp
      | true =>
        simp only [if_true, drawPixel, Bool.or_eq_true, and_true, Framebuffer.pixel_setPixel]
        constructor
        · rintro ((h | h) | ⟨x, hl, hp⟩)
          · exact .inl h
          · exact .inr ⟨_, .inl rfl, h⟩
          · rw [if_neg (hfar x hl)] at hp
            exact .inr ⟨x, .inr hl, hp⟩
        · rintro (h | ⟨x, rfl | hl, hp⟩)
          · exact .inl (.inl h)
          · exact .inl (.inr hp)
          · exact .inr ⟨x, hl, by rwa [if_neg (hfar x hl)]⟩
    · have : ∀ x, litCols b x0 y (n + 1) c x y = false := fun x => by
        have := x.isLt
        have e : decide (x0 + c ≤ x.val) = false := decide_eq_false (by omega)
        rw [litCols, e]; simp
      simp [this]

/-- The pixels that the row loop draws (R184, R185): rows `r` to `r + n - 1` of the sprite, eight columns each. -/
def litRows (row : Nat → Byte) (x0 y0 n r : Nat) (x : Fin 64) (y : Fin 32) : Bool :=
  decide (x0 ≤ x.val) && decide (x.val < x0 + 8) && decide (y0 + r ≤ y.val) && decide (y.val < y0 + r + n) &&
    spriteBit (row (y.val - y0)) (x.val - x0)

theorem litRows_succ (row : Nat → Byte) (x0 y0 n r : Nat) (hr : y0 + r < 32) (x : Fin 64) (y : Fin 32) :
    litRows row x0 y0 (n + 1) r x y =
      (litCols (row r) x0 ⟨y0 + r, hr⟩ 8 0 x y || litRows row x0 y0 n (r + 1) x y) := by
  by_cases hy : y = ⟨y0 + r, hr⟩
  · subst hy; simp [litRows, litCols]
  · have : y.val ≠ y0 + r := fun e => hy (Fin.ext e)
    have e1 : decide (y0 + (r + 1) ≤ y.val) = decide (y0 + r ≤ y.val) := decide_eq_decide.2 (by omega)
    have e2 : decide (y.val < y0 + (r + 1) + n) = decide (y.val < y0 + r + (n + 1)) := decide_eq_decide.2 (by omega)
    simp only [litRows, litCols, e1, e2, hy, decide_false, Bool.false_and, Bool.false_or]

/-- A row's pixels are not a later row's. -/
theorem litRows_apart (row : Nat → Byte) (x0 y0 n r : Nat) (hr : y0 + r < 32) (x : Fin 64) :
    litRows row x0 y0 n (r + 1) x ⟨y0 + r, hr⟩ = false := by
  have e : decide (y0 + (r + 1) ≤ y0 + r) = false := decide_eq_false (by omega)
  simp only [litRows, e]; simp

theorem litCols_row {b : Byte} {x0 : Nat} {y y' : Fin 32} {n c : Nat} {x : Fin 64}
    (h : litCols b x0 y n c x y' = true) : y' = y := by
  simp only [litCols, Bool.and_eq_true, decide_eq_true_eq] at h
  exact h.1.1.1

theorem litRows_zero (row : Nat → Byte) (x0 y0 r : Nat) (x : Fin 64) (y : Fin 32) :
    litRows row x0 y0 0 r x y = false := by
  simp only [litRows, Bool.and_eq_false_iff, decide_eq_false_iff_not]; omega

theorem litRows_below (row : Nat → Byte) (x0 y0 n r : Nat) (h : ¬ y0 + r < 32) (x : Fin 64) (y : Fin 32) :
    litRows row x0 y0 n r x y = false := by
  have := y.isLt
  have e : decide (y0 + r ≤ y.val) = false := decide_eq_false (by omega)
  simp only [litRows, e]; simp

/-- The row loop XORs exactly the drawn pixels. -/
theorem drawRows_pixel (row : Nat → Byte) (x0 y0 n r : Nat) (d : Framebuffer × Bool) (x : Fin 64) (y : Fin 32) :
    (drawRows row x0 y0 n r d).1.pixel x y = (d.1.pixel x y ^^ litRows row x0 y0 n r x y) := by
  induction n generalizing r d with
  | zero => simp [drawRows, litRows_zero]
  | succ n ih =>
    rw [drawRows]
    split
    · rename_i hr
      rw [ih, drawCols_pixel, litRows_succ row x0 y0 n r hr, Bool.xor_assoc]
      congr 1
      cases hc : litCols (row r) x0 ⟨y0 + r, hr⟩ 8 0 x y with
      | false => simp
      | true => rw [litCols_row hc, litRows_apart]; rfl
    · simp [litRows_below _ _ _ _ _ ‹_›]

/-- The row loop notes a collision exactly when a drawn pixel was lit before the loop (R183). -/
theorem drawRows_collision (row : Nat → Byte) (x0 y0 n r : Nat) (d : Framebuffer × Bool) :
    (drawRows row x0 y0 n r d).2 = true ↔
      d.2 = true ∨ ∃ x y, litRows row x0 y0 n r x y = true ∧ d.1.pixel x y = true := by
  induction n generalizing r d with
  | zero => simp [drawRows, litRows_zero]
  | succ n ih =>
    rw [drawRows]
    split
    · rename_i hr
      rw [ih, drawCols_collision]
      have key (x : Fin 64) (y : Fin 32) : litRows row x0 y0 (n + 1) r x y = true ∧ d.1.pixel x y = true ↔
          (y = ⟨y0 + r, hr⟩ ∧ litCols (row r) x0 ⟨y0 + r, hr⟩ 8 0 x ⟨y0 + r, hr⟩ = true ∧
              d.1.pixel x ⟨y0 + r, hr⟩ = true) ∨
            (litRows row x0 y0 n (r + 1) x y = true ∧
              (drawCols (row r) x0 ⟨y0 + r, hr⟩ 8 0 d).1.pixel x y = true) := by
        rw [litRows_succ row x0 y0 n r hr, drawCols_pixel]
        by_cases hy : y = ⟨y0 + r, hr⟩
        · subst hy; simp [litRows_apart]
        · have : litCols (row r) x0 ⟨y0 + r, hr⟩ 8 0 x y = false :=
            Bool.eq_false_iff.2 fun h => hy (litCols_row h)
          simp [this, hy]
      simp only [key]
      constructor
      · rintro ((h | ⟨x, h⟩) | ⟨x, y, h⟩)
        · exact .inl h
        · exact .inr ⟨x, _, .inl ⟨rfl, h⟩⟩
        · exact .inr ⟨x, y, .inr h⟩
      · rintro (h | ⟨x, y, ⟨-, h⟩ | h⟩)
        · exact .inl (.inl h)
        · exact .inl (.inr ⟨x, h⟩)
        · exact .inr ⟨x, y, h⟩
    · simp [litRows_below _ _ _ _ _ ‹_›]

end Sys2Proof.Machine
end

