-- ==== Sys2Proof/Laws/Meanings.lean ====
section
/-! SUPPORT. One spec lemma per meaning that runs through a shared loop or access. -/

namespace Sys2Proof.Machine

/-- `FX33` stores the three digits, or faults on the first address out of range (R173, R211). -/
theorem execFX33_eq (x : Reg) (s : State) :
    execFX33 x s = match firstOutOfRange s.params.addrOob [s.I.toNat, s.I.toNat + 1, s.I.toNat + 2] with
      | none => .next (s.setMem (s.mem.writeAll (wrapStores (digitStores s.I.toNat (s.reg x)))))
      | some a => .fault (.addressOutOfRange a s.instrPc) := by
  rw [execFX33, memWriteAll_eq]
  show outcomeOf (match firstOutOfRange s.params.addrOob [s.I.toNat, s.I.toNat + 1, s.I.toNat + 2] with | none => _ | some b => _) = _
  cases firstOutOfRange s.params.addrOob [s.I.toNat, s.I.toNat + 1, s.I.toNat + 2] <;> rfl

/-- `FX55` stores `V0` to `VX`, or faults on the first address out of range (R174, R211). -/
theorem execFX55_eq (x : Reg) (s : State) :
    execFX55 x s = match firstOutOfRange s.params.addrOob ((List.range (x.val + 1)).map (s.I.toNat + ·)) with
      | none => .next (s.setMem (s.mem.writeAll (wrapStores (registerStores s x))))
      | some a => .fault (.addressOutOfRange a s.instrPc) := by
  rw [execFX55, memWriteAll_eq, registerStores_addrs]
  cases firstOutOfRange s.params.addrOob ((List.range (x.val + 1)).map (s.I.toNat + ·)) <;> rfl

/-- The register writes of `FX65` (R175). -/
def registerFills (s : State) (x : Reg) : List (Reg × Byte) :=
  (regsUpTo x).map fun k => (k, s.mem.read (wrapAddr (s.I.toNat + k.val)))

/-- `FX65` loads `V0` to `VX`, or faults on the first address out of range (R175, R211). -/
theorem execFX65_eq (x : Reg) (s : State) :
    execFX65 x s = match firstOutOfRange s.params.addrOob ((List.range (x.val + 1)).map (s.I.toNat + ·)) with
      | none => .next (s.setRegs (registerFills s x))
      | some a => .fault (.addressOutOfRange a s.instrPc) := by
  have hz : (regsUpTo x).zip ((registerLoads s x).map fun a => s.mem.read (wrapAddr a)) = registerFills s x := by
    rw [registerLoads, List.map_map, registerFills, List.zip_map_right, List.zip_eq_zipWith, List.zipWith_self,
      List.map_map]
    rfl
  rw [execFX65, memReadAll_eq, registerLoads_eq]
  cases firstOutOfRange s.params.addrOob ((List.range (x.val + 1)).map (s.I.toNat + ·)) with
  | some a => rfl
  | none => rw [← registerLoads_eq]; simp only [hz]

/-- A register after `FX65`. -/
theorem reg_registerFills (s : State) (x q : Reg) :
    (s.setRegs (registerFills s x)).reg q =
      if q.val ≤ x.val then s.mem.read (wrapAddr (s.I.toNat + q.val)) else s.reg q := by
  split
  · refine State.reg_setRegs_of_mem s _ ?_ ?_
    · rw [registerFills, List.map_map]
      exact (List.map_id _).symm ▸ nodup_regsUpTo x
    · exact List.mem_map.2 ⟨q, mem_regsUpTo.2 ‹_›, rfl⟩
  · refine State.reg_setRegs_of_not_mem s _ _ ?_
    simp only [registerFills, List.mem_map]
    rintro _ ⟨k, hk, rfl⟩ rfl
    exact ‹¬ _› (mem_regsUpTo.1 hk)

theorem mem_wrapStores_registerStores (s : State) (x k : Reg) (h : k.val ≤ x.val) :
    (wrapAddr (s.I.toNat + k.val), s.reg k) ∈ wrapStores (registerStores s x) :=
  List.mem_map.2 ⟨_, List.mem_map.2 ⟨k, mem_regsUpTo.2 h, rfl⟩, rfl⟩

theorem nodup_wrapStores_registerStores (s : State) (x : Reg) :
    ((wrapStores (registerStores s x)).map (·.1)).Nodup := by
  rw [wrapStores, registerStores, List.map_map, List.map_map]
  exact (nodup_regsUpTo x).map fun j k h => wrapAddr_add_inj h

/-- A byte of memory after `FX55`: the stored register, or what it held (R174). -/
theorem read_registerStores {s : State} (hm : s.mem.wf) (x : Reg) :
    (∀ k : Reg, k.val ≤ x.val →
      (s.mem.writeAll (wrapStores (registerStores s x))).read (wrapAddr (s.I.toNat + k.val)) = s.reg k) ∧
    (∀ a, (∀ k : Reg, k.val ≤ x.val → a ≠ wrapAddr (s.I.toNat + k.val)) →
      (s.mem.writeAll (wrapStores (registerStores s x))).read a = s.mem.read a) := by
  refine ⟨fun k hk => ?_, fun a ha => ?_⟩
  · exact Memory.read_writeAll_of_mem hm (wrapStores_lt _) (nodup_wrapStores_registerStores s x)
      (mem_wrapStores_registerStores s x k hk)
  · refine Memory.read_writeAll_of_not_mem hm (wrapStores_lt _) fun p hp => ?_
    obtain ⟨q, hq, rfl⟩ := List.mem_map.1 hp
    obtain ⟨k, hk, rfl⟩ := List.mem_map.1 hq
    exact fun e => ha k (mem_regsUpTo.1 hk) e.symm

/-- The pixels that `DXYN` draws (R182 to R185). -/
def litSprite (s : State) (x0 y0 n : Nat) : Fin 64 → Fin 32 → Bool := litRows (spriteRow s) x0 y0 (min n 16) 0

theorem drawSprite_pixel (s : State) (x0 y0 n : Nat) (x : Fin 64) (y : Fin 32) :
    (drawSprite s x0 y0 n).1.pixel x y = (s.fb.pixel x y ^^ litSprite s x0 y0 n x y) :=
  drawRows_pixel ..

theorem drawSprite_collision (s : State) (x0 y0 n : Nat) :
    (drawSprite s x0 y0 n).2 = true ↔ ∃ x y, litSprite s x0 y0 n x y = true ∧ s.fb.pixel x y = true := by
  simp [drawSprite, drawRows_collision, litSprite]

end Sys2Proof.Machine
end

