-- ==== Sys2Proof/Laws/Exec.lean ====
section
/-! SUPPORT. What execute and a step can do, said once: the next state of each instruction, or R211's fault. -/

namespace Sys2Proof.Machine

/-- The state after an instruction whose accesses are all in range. -/
def post (i : Instr) (s : State) : State :=
  match i with
  | .op00E0 _ => (s.setFb Framebuffer.clear).emit .redraw
  | .op00EE _ => s.popped.setPc s.popValue
  | .op1NNN nnn => s.setPc (zextAddr nnn)
  | .op2NNN nnn => (s.push s.pc).setPc (zextAddr nnn)
  | .op3XNN x nn => s.setPc (if s.reg x == nn then s.pc + 2 else s.pc)
  | .op4XNN x nn => s.setPc (if s.reg x != nn then s.pc + 2 else s.pc)
  | .op5XY0 x y _ => s.setPc (if s.reg x == s.reg y then s.pc + 2 else s.pc)
  | .op6XNN x nn => s.setReg x nn
  | .op7XNN x nn => s.setReg x (s.reg x + nn)
  | .op8XY0 x y => s.setReg x (s.reg y)
  | .op8XY1 x y => s.setReg x (s.reg x ||| s.reg y)
  | .op8XY2 x y => s.setReg x (s.reg x &&& s.reg y)
  | .op8XY3 x y => s.setReg x (s.reg x ^^^ s.reg y)
  | .op8XY4 x y => s.setRegFlag x (s.reg x + s.reg y) (noCarry (s.reg x) (s.reg y))
  | .op8XY5 x y => s.setRegFlag x (s.reg x - s.reg y) (noBorrow (s.reg x) (s.reg y))
  | .op8XY6 x _ => s.setRegFlag x (s.reg x >>> 1) (lowBit (s.reg x))
  | .op8XY7 x y => s.setRegFlag x (s.reg y - s.reg x) (noBorrow (s.reg y) (s.reg x))
  | .op8XYE x _ => s.setRegFlag x (s.reg x <<< 1) (highBit (s.reg x))
  | .op9XY0 x y _ => s.setPc (if s.reg x != s.reg y then s.pc + 2 else s.pc)
  | .opANNN nnn => s.setI (zextAddr nnn)
  | .opBNNN nnn => s.setPc (zextAddr nnn + zextByte (s.reg 0))
  | .opCXNN x nn => s.countDraw.setReg x (s.drawn &&& nn)
  | .opDXYN x y n => ((s.setFb (drawSprite s (s.reg x).toNat (s.reg y).toNat n.toNat).1).setReg regF
      (flagOf (drawSprite s (s.reg x).toNat (s.reg y).toNat n.toNat).2)).emit .redraw
  | .opEX9E x => (s.setPc (if pressed s.KM (s.reg x) then s.pc + 2 else s.pc)).setKM (if s.KP = .autoClear then 0 else s.KM)
  | .opEXA1 x => (s.setPc (if !pressed s.KM (s.reg x) then s.pc + 2 else s.pc)).setKM (if s.KP = .autoClear then 0 else s.KM)
  | .opFX07 x => s.setReg x s.DT
  | .opFX0A x => if s.KM = 0 then s.setPc (s.pc - 2) else (s.setReg x (lowestKey s.KM)).setKM 0
  | .opFX15 x => s.setDT (s.reg x)
  | .opFX18 x => s.setST (s.reg x)
  | .opFX1E x => (s.setI (BitVec.ofNat 16 (wrapAddr (s.I.toNat + (s.reg x).toNat)))).setReg regF (indexOverflow s.I (s.reg x))
  | .opFX29 x => s.setI (glyphAddr (s.reg x))
  | .opFX33 x => s.setMem (s.mem.writeAll (wrapStores (digitStores s.I.toNat (s.reg x))))
  | .opFX55 x => s.setMem (s.mem.writeAll (wrapStores (registerStores s x)))
  | .opFX65 x => s.setRegs (registerFills s x)
  | .unsupported _ => s

/-- `exec` answers `post`, or the fault of the first data access out of range (R104, R211); it never refuses. -/
theorem exec_eq (i : Instr) (s : State) :
    exec i s = match firstOutOfRange s.params.addrOob (dataAccesses i s) with
      | none => .next (post i s)
      | some a => .fault (.addressOutOfRange a s.instrPc) := by
  cases i
  case opFX33 x => exact execFX33_eq x s
  case opFX55 x => exact execFX55_eq x s
  case opFX65 x => exact execFX65_eq x s
  case opFX0A x =>
    simp only [dataAccesses, firstOutOfRange_nil, exec, execFX0A, post]
    split <;> rfl
  case op3XNN => simp only [dataAccesses, firstOutOfRange_nil, exec, exec3XNN, post, State.skipIf_eq]
  case op4XNN => simp only [dataAccesses, firstOutOfRange_nil, exec, exec4XNN, post, State.skipIf_eq]
  case op5XY0 => simp only [dataAccesses, firstOutOfRange_nil, exec, exec5XY0, post, State.skipIf_eq]
  case op9XY0 => simp only [dataAccesses, firstOutOfRange_nil, exec, exec9XY0, post, State.skipIf_eq]
  case opEX9E => simp only [dataAccesses, firstOutOfRange_nil, exec, execEX9E, post, State.skipIf_eq, State.queryClear_eq, State.setPc_KP, State.setPc_KM]; rfl
  case opEXA1 => simp only [dataAccesses, firstOutOfRange_nil, exec, execEXA1, post, State.skipIf_eq, State.queryClear_eq, State.setPc_KP, State.setPc_KM]; rfl
  all_goals
    rw [dataAccesses, firstOutOfRange_nil]
    · rfl
    all_goals simp

theorem exec_next {i : Instr} {s t : State} (h : exec i s = .next t) : t = post i s := by
  rw [exec_eq] at h
  split at h
  · injection h with h; exact h.symm
  · cases h

/-- A step answers the cycle's end, or the fault of the first access out of range, with the instruction's address (R101,
R211). -/
theorem step_eq (s : State) :
    step s = match firstOutOfRange s.params.addrOob [s.pc.toNat, s.pc.toNat + 1] with
      | some a => .fault (.addressOutOfRange a s.pc)
      | none =>
        let i := decodeWord (wordOfBytes (s.mem.read (wrapAddr s.pc.toNat)) (s.mem.read (wrapAddr (s.pc.toNat + 1))))
        match firstOutOfRange s.params.addrOob (dataAccesses i s) with
        | some a => .fault (.addressOutOfRange a s.pc)
        | none => .next (endCycle (post i (beginCycle s))) := by
  rw [step, fetch_eq]
  cases firstOutOfRange s.params.addrOob [s.pc.toNat, s.pc.toNat + 1] with
  | some a => rfl
  | none =>
    simp only [exec_eq, instrPc_beginCycle, beginCycle_params]
    have (i : Instr) : dataAccesses i (beginCycle s) = dataAccesses i s := by cases i <;> rfl
    rw [this]
    cases firstOutOfRange s.params.addrOob _ <;> rfl

/-- The step inversion that proofs over all instructions start from. -/
theorem step_next_post {s t : State} {w : Word} (hf : fetch s = .ok w) (h : step s = .next t) :
    t = endCycle (post (decodeWord w) (beginCycle s)) := by
  obtain ⟨w', u, hf', he, rfl⟩ := step_next h
  rw [hf] at hf'
  injection hf' with hw
  rw [exec_next he, hw]

end Sys2Proof.Machine
end

