-- ==== Sys2Proof/Laws/HostPort.lean ====
section
/-! SUPPORT. What the host's transactions do, field by field (60_exceptions.md rule R218). -/

namespace Sys2Proof.Machine

/-! ### `init` -/

@[simp] theorem State.init_v (s : State) (font : Config.FontData) : (s.init font).v = State.reset.v := rfl
@[simp] theorem State.init_pc (s : State) (font : Config.FontData) : (s.init font).pc = State.reset.pc := rfl
@[simp] theorem State.init_I (s : State) (font : Config.FontData) : (s.init font).I = State.reset.I := rfl
@[simp] theorem State.init_sp (s : State) (font : Config.FontData) : (s.init font).sp = State.reset.sp := rfl
@[simp] theorem State.init_stack (s : State) (font : Config.FontData) : (s.init font).stack = State.reset.stack := rfl
@[simp] theorem State.init_DT (s : State) (font : Config.FontData) : (s.init font).DT = State.reset.DT := rfl
@[simp] theorem State.init_ST (s : State) (font : Config.FontData) : (s.init font).ST = State.reset.ST := rfl
@[simp] theorem State.init_KM (s : State) (font : Config.FontData) : (s.init font).KM = State.reset.KM := rfl
@[simp] theorem State.init_KP (s : State) (font : Config.FontData) : (s.init font).KP = State.reset.KP := rfl
@[simp] theorem State.init_fb (s : State) (font : Config.FontData) : (s.init font).fb = State.reset.fb := rfl
@[simp] theorem State.init_mem (s : State) (font : Config.FontData) : (s.init font).mem = fontMemory font.val := by simp only [State.init]
@[simp] theorem State.init_params (s : State) (font : Config.FontData) : (s.init font).params = s.params := rfl
@[simp] theorem State.init_rnd (s : State) (font : Config.FontData) : (s.init font).rnd = State.reset.rnd := rfl
@[simp] theorem State.init_draws (s : State) (font : Config.FontData) : (s.init font).draws = s.draws := rfl
@[simp] theorem State.init_events (s : State) (font : Config.FontData) : (s.init font).events = State.reset.events := rfl

theorem fontStores_lt (font : Vector Byte 80) :
    ∀ p ∈ (List.range Config.fontBytes).map (fun k => (Config.fontBase + k, fontByte font (Config.fontBase + k))),
      p.1 < Config.memSize := by
  intro p hp
  obtain ⟨k, hk, rfl⟩ := List.mem_map.1 hp
  have : k < 80 := List.mem_range.1 hk
  show 0x50 + k < 4096
  omega

theorem fontMemory_wf (font : Vector Byte 80) : (fontMemory font).wf :=
  Memory.wf_writeAll Memory.wf_nil (fontStores_lt font)

/-- Memory after `init` reads as FONT_DATA at 0x050..0x09F and as 0 elsewhere (R40). -/
theorem read_fontMemory (font : Vector Byte 80) (a : Nat) : (fontMemory font).read a = fontByte font a := by
  by_cases h : Config.fontBase ≤ a ∧ a < Config.fontBase + Config.fontBytes
  · refine Memory.read_writeAll_of_mem Memory.wf_nil (fontStores_lt font) ?_ ?_
    · rw [List.map_map]
      exact List.nodup_range.map fun j k h => Nat.add_left_cancel h
    · refine List.mem_map.2 ⟨a - Config.fontBase, List.mem_range.2 (by omega), ?_⟩
      rw [Nat.add_sub_cancel' h.1]
  · rw [fontMemory, Memory.read_writeAll_of_not_mem Memory.wf_nil (fontStores_lt font)]
    · rw [Memory.read, Memory.background, fontByte, fontByte, dif_neg h, dif_neg h]
    · intro p hp e
      obtain ⟨k, hk, rfl⟩ := List.mem_map.1 hp
      have := List.mem_range.1 hk
      exact h (by dsimp only at e; omega)

theorem fontByte_in (font : Vector Byte 80) (k : Fin 80) : fontByte font (0x050 + k.val) = font[k.val] := by
  have := k.isLt
  rw [fontByte, dif_pos ⟨Nat.le_add_right .., Nat.add_lt_add_left k.isLt _⟩]
  congr 1
  exact Nat.add_sub_cancel_left ..

theorem fontByte_out (font : Vector Byte 80) {a : Nat} (h : a < 0x050 ∨ 0x09F < a) : fontByte font a = 0 := by
  rw [fontByte, dif_neg]
  show ¬(0x50 ≤ a ∧ a < 0x50 + 80)
  omega

/-! ### `load_rom` -/

/-- An empty image changes nothing (R232). -/
@[simp] theorem State.loadRom_nil (s : State) : s.loadRom [] = s := rfl
@[simp] theorem State.loadRom_v (s : State) (bytes : List Byte) : (s.loadRom bytes).v = s.v := rfl
@[simp] theorem State.loadRom_pc (s : State) (bytes : List Byte) : (s.loadRom bytes).pc = s.pc := rfl
@[simp] theorem State.loadRom_I (s : State) (bytes : List Byte) : (s.loadRom bytes).I = s.I := rfl
@[simp] theorem State.loadRom_sp (s : State) (bytes : List Byte) : (s.loadRom bytes).sp = s.sp := rfl
@[simp] theorem State.loadRom_stack (s : State) (bytes : List Byte) : (s.loadRom bytes).stack = s.stack := rfl
@[simp] theorem State.loadRom_DT (s : State) (bytes : List Byte) : (s.loadRom bytes).DT = s.DT := rfl
@[simp] theorem State.loadRom_ST (s : State) (bytes : List Byte) : (s.loadRom bytes).ST = s.ST := rfl
@[simp] theorem State.loadRom_KM (s : State) (bytes : List Byte) : (s.loadRom bytes).KM = s.KM := rfl
@[simp] theorem State.loadRom_KP (s : State) (bytes : List Byte) : (s.loadRom bytes).KP = s.KP := rfl
@[simp] theorem State.loadRom_fb (s : State) (bytes : List Byte) : (s.loadRom bytes).fb = s.fb := rfl
@[simp] theorem State.loadRom_params (s : State) (bytes : List Byte) : (s.loadRom bytes).params = s.params := rfl
@[simp] theorem State.loadRom_rnd (s : State) (bytes : List Byte) : (s.loadRom bytes).rnd = s.rnd := rfl
@[simp] theorem State.loadRom_draws (s : State) (bytes : List Byte) : (s.loadRom bytes).draws = s.draws := rfl
@[simp] theorem State.loadRom_events (s : State) (bytes : List Byte) : (s.loadRom bytes).events = s.events := rfl

theorem romStores_addr {bytes : List Byte} {p : Nat × Byte} (h : p ∈ romStores bytes) :
    ∃ k, k < bytes.length ∧ k < 2048 ∧ p.1 = 0x200 + k := by
  obtain ⟨k, hk, e⟩ := List.mem_map.1 (List.of_mem_zip (a := p.1) (b := p.2) h).1
  have := List.mem_range.1 hk
  rw [List.length_take] at this
  exact ⟨k, by omega, by have : Config.romMax = 2048 := rfl; omega, e.symm⟩

theorem romStores_lt (bytes : List Byte) : ∀ p ∈ romStores bytes, p.1 < Config.memSize := by
  intro p hp
  obtain ⟨k, -, hk, e⟩ := romStores_addr hp
  have : Config.memSize = 4096 := rfl
  omega

theorem romStores_nodup (bytes : List Byte) : ((romStores bytes).map (·.1)).Nodup := by
  rw [romStores]
  rw [← List.unzip_fst, List.unzip_zip (by simp)]
  exact List.nodup_range.map fun j k h => Nat.add_left_cancel h

theorem mem_romStores {bytes : List Byte} {k : Nat} (h : k < bytes.length) (h' : k < 2048) :
    (0x200 + k, bytes[k]) ∈ romStores bytes := by
  have : Config.romMax = 2048 := rfl
  refine List.mem_iff_getElem.2 ⟨k, ?_, ?_⟩ <;> simp [romStores, this, Config.progBase]
  omega

theorem loadRom_wf {s : State} (hm : s.mem.wf) (bytes : List Byte) : (s.loadRom bytes).mem.wf :=
  Memory.wf_writeAll hm (romStores_lt bytes)

/-- A byte of memory after `load_rom` (R232). -/
theorem read_loadRom {s : State} (hm : s.mem.wf) (bytes : List Byte) :
    (∀ (k : Nat) (h : k < bytes.length), k < 2048 → (s.loadRom bytes).mem.read (0x200 + k) = bytes[k]) ∧
    (∀ a, a < 0x200 ∨ 0x200 + bytes.length ≤ a ∨ 0xA00 ≤ a → (s.loadRom bytes).mem.read a = s.mem.read a) := by
  refine ⟨fun k h h' => ?_, fun a ha => ?_⟩
  · exact Memory.read_writeAll_of_mem hm (romStores_lt bytes) (romStores_nodup bytes) (mem_romStores h h')
  · refine Memory.read_writeAll_of_not_mem hm (romStores_lt bytes) fun p hp => ?_
    obtain ⟨k, h1, h2, e⟩ := romStores_addr hp
    omega

/-! ### Keys -/

theorem keyBit_getLsbD {k j : Nat} (hk : k < 16) (hj : j < 16) : (keyBit k).getLsbD j = decide (j = k) := by
  have all : ∀ k j : Fin 16, (keyBit k.val).getLsbD j.val = decide (j.val = k.val) := by decide
  exact all ⟨k, hk⟩ ⟨j, hj⟩

/-- Everything `key_down` does: `KM` (R222). -/
theorem State.keyDown_eq (s : State) (k : Nat) :
    s.keyDown k = s.setKM (if k < 16 then s.KM ||| keyBit k else s.KM) := by
  unfold keyDown; split <;> rfl

/-- Everything `key_up` does: `KM` (R223). -/
theorem State.keyUp_eq (s : State) (k : Nat) :
    s.keyUp k = s.setKM (if k < 16 then s.KM &&& ~~~(keyBit k) else s.KM) := by
  unfold keyUp; split <;> rfl

@[simp] theorem State.setKeyPolicy_v (s : State) (p : KeyPolicy) : (s.setKeyPolicy p).v = s.v := rfl
@[simp] theorem State.setKeyPolicy_pc (s : State) (p : KeyPolicy) : (s.setKeyPolicy p).pc = s.pc := rfl
@[simp] theorem State.setKeyPolicy_I (s : State) (p : KeyPolicy) : (s.setKeyPolicy p).I = s.I := rfl
@[simp] theorem State.setKeyPolicy_sp (s : State) (p : KeyPolicy) : (s.setKeyPolicy p).sp = s.sp := rfl
@[simp] theorem State.setKeyPolicy_stack (s : State) (p : KeyPolicy) : (s.setKeyPolicy p).stack = s.stack := rfl
@[simp] theorem State.setKeyPolicy_DT (s : State) (p : KeyPolicy) : (s.setKeyPolicy p).DT = s.DT := rfl
@[simp] theorem State.setKeyPolicy_ST (s : State) (p : KeyPolicy) : (s.setKeyPolicy p).ST = s.ST := rfl
@[simp] theorem State.setKeyPolicy_KM (s : State) (p : KeyPolicy) : (s.setKeyPolicy p).KM = s.KM := rfl
@[simp] theorem State.setKeyPolicy_KP (s : State) (p : KeyPolicy) : (s.setKeyPolicy p).KP = p := rfl
@[simp] theorem State.setKeyPolicy_fb (s : State) (p : KeyPolicy) : (s.setKeyPolicy p).fb = s.fb := rfl
@[simp] theorem State.setKeyPolicy_mem (s : State) (p : KeyPolicy) : (s.setKeyPolicy p).mem = s.mem := rfl
@[simp] theorem State.setKeyPolicy_params (s : State) (p : KeyPolicy) : (s.setKeyPolicy p).params = s.params := rfl
@[simp] theorem State.setKeyPolicy_rnd (s : State) (p : KeyPolicy) : (s.setKeyPolicy p).rnd = s.rnd := rfl
@[simp] theorem State.setKeyPolicy_draws (s : State) (p : KeyPolicy) : (s.setKeyPolicy p).draws = s.draws := rfl
@[simp] theorem State.setKeyPolicy_events (s : State) (p : KeyPolicy) : (s.setKeyPolicy p).events = s.events := rfl

end Sys2Proof.Machine
end

