-- ==== Sys2Proof/Laws/PerInstr.lean ====
section
/-! SUPPORT. The family RoundTrip: decoding the bytes of a well-formed instruction gives it back (R71, R76, R87). -/

namespace Sys2Proof.Laws.RoundTrip

/-- Decoding the encoded bytes of `i` gives `i` and leaves no byte. -/
def Statement (i : Instr) : Prop := i.wellFormed = true → decode (encodeBytes i) = .ok (i, [])

theorem of_decodeWord {i : Instr} (h : i.wellFormed = true → decodeWord (encode i) = i) : Statement i := fun hw => by
  rw [encodeBytes, decode_bytesOfWord, h hw]

theorem op00E0 (n2 : Nibble) : Statement (.op00E0 n2) := of_decodeWord fun _ => by
  simp [encode, decodeWord, decodeFamily0, n1_wordOfNibbles, n2_wordOfNibbles, nn_wordOfNibbles]

theorem op00EE (n2 : Nibble) : Statement (.op00EE n2) := of_decodeWord fun _ => by
  simp [encode, decodeWord, decodeFamily0, n1_wordOfNibbles, n2_wordOfNibbles, nn_wordOfNibbles]

theorem op1NNN (nnn : Addr12) : Statement (.op1NNN nnn) := of_decodeWord fun _ => by
  simp [encode, decodeWord, n1_wordNNN, nnn_wordNNN]

theorem op2NNN (nnn : Addr12) : Statement (.op2NNN nnn) := of_decodeWord fun _ => by
  simp [encode, decodeWord, n1_wordNNN, nnn_wordNNN]

theorem op3XNN (x : Reg) (nn : Byte) : Statement (.op3XNN x nn) := of_decodeWord fun _ => by
  simp [encode, decodeWord, n1_wordXNN, n2_wordXNN, nn_wordXNN]

theorem op4XNN (x : Reg) (nn : Byte) : Statement (.op4XNN x nn) := of_decodeWord fun _ => by
  simp [encode, decodeWord, n1_wordXNN, n2_wordXNN, nn_wordXNN]

theorem op5XY0 (x y : Reg) (n4 : Nibble) : Statement (.op5XY0 x y n4) := of_decodeWord fun _ => by
  simp [encode, decodeWord, n1_wordXYN, n2_wordXYN, n3_wordXYN, n4_wordXYN]

theorem op6XNN (x : Reg) (nn : Byte) : Statement (.op6XNN x nn) := of_decodeWord fun _ => by
  simp [encode, decodeWord, n1_wordXNN, n2_wordXNN, nn_wordXNN]

theorem op7XNN (x : Reg) (nn : Byte) : Statement (.op7XNN x nn) := of_decodeWord fun _ => by
  simp [encode, decodeWord, n1_wordXNN, n2_wordXNN, nn_wordXNN]

theorem op8XY0 (x y : Reg) : Statement (.op8XY0 x y) := of_decodeWord fun _ => by
  simp [encode, decodeWord, decodeFamily8, n1_wordXYN, n2_wordXYN, n3_wordXYN, n4_wordXYN]

theorem op8XY1 (x y : Reg) : Statement (.op8XY1 x y) := of_decodeWord fun _ => by
  simp [encode, decodeWord, decodeFamily8, n1_wordXYN, n2_wordXYN, n3_wordXYN, n4_wordXYN]

theorem op8XY2 (x y : Reg) : Statement (.op8XY2 x y) := of_decodeWord fun _ => by
  simp [encode, decodeWord, decodeFamily8, n1_wordXYN, n2_wordXYN, n3_wordXYN, n4_wordXYN]

theorem op8XY3 (x y : Reg) : Statement (.op8XY3 x y) := of_decodeWord fun _ => by
  simp [encode, decodeWord, decodeFamily8, n1_wordXYN, n2_wordXYN, n3_wordXYN, n4_wordXYN]

theorem op8XY4 (x y : Reg) : Statement (.op8XY4 x y) := of_decodeWord fun _ => by
  simp [encode, decodeWord, decodeFamily8, n1_wordXYN, n2_wordXYN, n3_wordXYN, n4_wordXYN]

theorem op8XY5 (x y : Reg) : Statement (.op8XY5 x y) := of_decodeWord fun _ => by
  simp [encode, decodeWord, decodeFamily8, n1_wordXYN, n2_wordXYN, n3_wordXYN, n4_wordXYN]

theorem op8XY6 (x y : Reg) : Statement (.op8XY6 x y) := of_decodeWord fun _ => by
  simp [encode, decodeWord, decodeFamily8, n1_wordXYN, n2_wordXYN, n3_wordXYN, n4_wordXYN]

theorem op8XY7 (x y : Reg) : Statement (.op8XY7 x y) := of_decodeWord fun _ => by
  simp [encode, decodeWord, decodeFamily8, n1_wordXYN, n2_wordXYN, n3_wordXYN, n4_wordXYN]

theorem op8XYE (x y : Reg) : Statement (.op8XYE x y) := of_decodeWord fun _ => by
  simp [encode, decodeWord, decodeFamily8, n1_wordXYN, n2_wordXYN, n3_wordXYN, n4_wordXYN]

theorem op9XY0 (x y : Reg) (n4 : Nibble) : Statement (.op9XY0 x y n4) := of_decodeWord fun _ => by
  simp [encode, decodeWord, n1_wordXYN, n2_wordXYN, n3_wordXYN, n4_wordXYN]

theorem opANNN (nnn : Addr12) : Statement (.opANNN nnn) := of_decodeWord fun _ => by
  simp [encode, decodeWord, n1_wordNNN, nnn_wordNNN]

theorem opBNNN (nnn : Addr12) : Statement (.opBNNN nnn) := of_decodeWord fun _ => by
  simp [encode, decodeWord, n1_wordNNN, nnn_wordNNN]

theorem opCXNN (x : Reg) (nn : Byte) : Statement (.opCXNN x nn) := of_decodeWord fun _ => by
  simp [encode, decodeWord, n1_wordXNN, n2_wordXNN, nn_wordXNN]

theorem opDXYN (x y : Reg) (n : Nibble) : Statement (.opDXYN x y n) := of_decodeWord fun _ => by
  simp [encode, decodeWord, n1_wordXYN, n2_wordXYN, n3_wordXYN, n4_wordXYN]

theorem opEX9E (x : Reg) : Statement (.opEX9E x) := of_decodeWord fun _ => by
  simp [encode, decodeWord, decodeFamilyE, n1_wordXNN, n2_wordXNN, nn_wordXNN]

theorem opEXA1 (x : Reg) : Statement (.opEXA1 x) := of_decodeWord fun _ => by
  simp [encode, decodeWord, decodeFamilyE, n1_wordXNN, n2_wordXNN, nn_wordXNN]

theorem opFX07 (x : Reg) : Statement (.opFX07 x) := of_decodeWord fun _ => by
  simp [encode, decodeWord, decodeFamilyF, n1_wordXNN, n2_wordXNN, nn_wordXNN]

theorem opFX0A (x : Reg) : Statement (.opFX0A x) := of_decodeWord fun _ => by
  simp [encode, decodeWord, decodeFamilyF, n1_wordXNN, n2_wordXNN, nn_wordXNN]

theorem opFX15 (x : Reg) : Statement (.opFX15 x) := of_decodeWord fun _ => by
  simp [encode, decodeWord, decodeFamilyF, n1_wordXNN, n2_wordXNN, nn_wordXNN]

theorem opFX18 (x : Reg) : Statement (.opFX18 x) := of_decodeWord fun _ => by
  simp [encode, decodeWord, decodeFamilyF, n1_wordXNN, n2_wordXNN, nn_wordXNN]

theorem opFX1E (x : Reg) : Statement (.opFX1E x) := of_decodeWord fun _ => by
  simp [encode, decodeWord, decodeFamilyF, n1_wordXNN, n2_wordXNN, nn_wordXNN]

theorem opFX29 (x : Reg) : Statement (.opFX29 x) := of_decodeWord fun _ => by
  simp [encode, decodeWord, decodeFamilyF, n1_wordXNN, n2_wordXNN, nn_wordXNN]

theorem opFX33 (x : Reg) : Statement (.opFX33 x) := of_decodeWord fun _ => by
  simp [encode, decodeWord, decodeFamilyF, n1_wordXNN, n2_wordXNN, nn_wordXNN]

theorem opFX55 (x : Reg) : Statement (.opFX55 x) := of_decodeWord fun _ => by
  simp [encode, decodeWord, decodeFamilyF, n1_wordXNN, n2_wordXNN, nn_wordXNN]

theorem opFX65 (x : Reg) : Statement (.opFX65 x) := of_decodeWord fun _ => by
  simp [encode, decodeWord, decodeFamilyF, n1_wordXNN, n2_wordXNN, nn_wordXNN]

theorem unsupported (w : Word) : Statement (.unsupported w) := of_decodeWord decodeWord_unsupported

end Sys2Proof.Laws.RoundTrip
end

