-- ==== Sys2Proof/Tests/Slice0.lean ====
section
/-! SUPPORT. Tests: each expected result is the spec's (95_test_vectors.md names W<n>, TV-<id>; 30_encoding.md the
words), and each `witness_<obligation>` shows states and operands that meet the hypotheses of that obligation. -/

namespace Sys2Proof.Tests
open Sys2Proof.Machine

/-! ### Well-formedness: one check, and the ill-formed terms it refuses (R77) -/

theorem test_ill_formed_00E0 : (Instr.unsupported 0x00E0).wellFormed = false := by decide
theorem test_ill_formed_8XY4 : (Instr.unsupported 0x8124).wellFormed = false := by decide
theorem test_ill_formed_EX9E : (Instr.unsupported 0xE59E).wellFormed = false := by decide
theorem test_ill_formed_FX65 : (Instr.unsupported 0xFF65).wellFormed = false := by decide
theorem test_ill_formed_1NNN : (Instr.unsupported 0x1000).wellFormed = false := by decide
theorem test_well_formed_unsupported : (Instr.unsupported 0xFFFF).wellFormed = true := by decide

/-! ### Decoding: words written out from the patterns of R72 and R76, bits 15 to 0 -/

/-- TV-DEC1: the fields of 0xD12F (R71). -/
theorem test_fields : n1 0xD12F = 0xD ∧ n2 0xD12F = 0x1 ∧ n3 0xD12F = 0x2 ∧ n4 0xD12F = 0xF ∧ nn 0xD12F = 0x2F ∧
    nnn 0xD12F = 0x12F := by decide
theorem test_decode_family_0 : decodeWord 0b0000_0000_1110_0000 = .op00E0 0 ∧
    decodeWord 0b0000_0000_1110_1110 = .op00EE 0 ∧ decodeWord 0b0000_0000_0000_0000 = .unsupported 0 := by decide
/-- TV-DEC8: the alias words (R78, decision D8). -/
theorem test_decode_aliases : decodeWord 0x01E0 = .op00E0 1 ∧ decodeWord 0x0FEE = .op00EE 15 ∧
    decodeWord 0x5121 = .op5XY0 1 2 1 ∧ decodeWord 0x9121 = .op9XY0 1 2 1 := by decide
theorem test_decode_addresses : decodeWord 0b0001_0010_0011_0100 = .op1NNN 0x234 ∧
    decodeWord 0b0010_1111_1110_1101 = .op2NNN 0xFED ∧ decodeWord 0b1010_0000_0101_0000 = .opANNN 0x050 ∧
    decodeWord 0b1011_0101_1111_1111 = .opBNNN 0x5FF := by decide
theorem test_decode_bytes : decodeWord 0b0011_0011_0100_0010 = .op3XNN 3 0x42 ∧
    decodeWord 0b0100_1110_0001_0011 = .op4XNN 14 0x13 ∧ decodeWord 0b0110_1010_0100_0010 = .op6XNN 10 0x42 ∧
    decodeWord 0b0111_1010_0000_0001 = .op7XNN 10 0x01 ∧ decodeWord 0b1100_0011_1111_1110 = .opCXNN 3 0xFE := by decide
theorem test_decode_family_8_low : decodeWord 0b1000_0001_0010_0000 = .op8XY0 1 2 ∧
    decodeWord 0b1000_0001_0010_0001 = .op8XY1 1 2 ∧ decodeWord 0b1000_0001_0010_0010 = .op8XY2 1 2 ∧
    decodeWord 0b1000_0001_0010_0011 = .op8XY3 1 2 ∧ decodeWord 0b1000_1010_1011_0100 = .op8XY4 10 11 := by decide
theorem test_decode_family_8_high : decodeWord 0b1000_0001_0010_0101 = .op8XY5 1 2 ∧
    decodeWord 0b1000_0001_0010_0110 = .op8XY6 1 2 ∧ decodeWord 0b1000_0001_0010_0111 = .op8XY7 1 2 ∧
    decodeWord 0b1000_0001_0010_1110 = .op8XYE 1 2 ∧ decodeWord 0b1000_0001_0010_1111 = .unsupported 0x812F := by decide
theorem test_decode_registers : decodeWord 0b0101_0001_0010_0000 = .op5XY0 1 2 0 ∧
    decodeWord 0b1001_0001_0010_0000 = .op9XY0 1 2 0 ∧ decodeWord 0b1101_0001_0010_1111 = .opDXYN 1 2 15 := by decide
theorem test_decode_family_E : decodeWord 0b1110_0101_1001_1110 = .opEX9E 5 ∧
    decodeWord 0b1110_1111_1010_0001 = .opEXA1 15 ∧ decodeWord 0b1110_0101_1001_1111 = .unsupported 0xE59F := by decide
theorem test_decode_family_F_low : decodeWord 0b1111_0001_0000_0111 = .opFX07 1 ∧
    decodeWord 0b1111_0010_0000_1010 = .opFX0A 2 ∧ decodeWord 0b1111_0011_0001_0101 = .opFX15 3 ∧
    decodeWord 0b1111_0100_0001_1000 = .opFX18 4 ∧ decodeWord 0b1111_0101_0001_1110 = .opFX1E 5 := by decide
theorem test_decode_family_F_high : decodeWord 0b1111_0110_0010_1001 = .opFX29 6 ∧
    decodeWord 0b1111_0111_0011_0011 = .opFX33 7 ∧ decodeWord 0b1111_1000_0101_0101 = .opFX55 8 ∧
    decodeWord 0b1111_1111_0110_0101 = .opFX65 15 ∧ decodeWord 0b1111_1111_1111_1111 = .unsupported 0xFFFF := by decide
/-- R70, R53: two bytes, the first one the high byte; one byte is no instruction. -/
theorem test_decode_bytes_in_memory_order : decode [0x12, 0x34, 0x56] = .ok (.op1NNN 0x234, [0x56]) ∧
    decode [0x12] = .error .truncated := by decide
theorem test_decode_table_word : decodeTableWord 16 0xF265 = some (.opFX65 2) := by decide

/-! ### One step on a small state -/

/-- The state 95_test_vectors.md starts from: reset, with registers and bytes of memory changed. -/
def start (rs : List (Reg × Byte)) (bytes : List (Nat × Byte) := []) : State :=
  (State.reset.setRegs rs).setMem (State.reset.mem.writeAll bytes)

/-- What the outcome's next state gives, if there is one. -/
def see {α : Type} (f : State → α) : Host.Outcome State Fault Refusal → Option α
  | .next t => some (f t)
  | .fault _ => none
  | .refused _ => none

/-- The fault of an outcome, if it is one. -/
def faultOf : Host.Outcome State Fault Refusal → Option Fault
  | .next _ => none
  | .fault f => some f
  | .refused _ => none

/-- The cycle that runs the word `w` from `s`. -/
def cycle (w : Nat) (s : State) : Host.Outcome State Fault Refusal := step (s.withFetchWord 16 w)

/-- The same state under ADDR_OOB = FAULT. -/
def strict (s : State) : State := { s with params := ⟨.fault, .wrapTo15⟩ }

/-- TV-DEC6: the fetch at 0xFFF takes its second byte from 0x000 under WRAP. -/
theorem test_fetch_wraps : see (·.pc) (step { start [] [(0xFFF, 0x12), (0x000, 0x00)] with pc := 0xFFF }) =
    some 0x200 := by decide
/-- TV-DEC6: the same fetch faults under FAULT. -/
theorem test_fetch_faults : faultOf (step (strict { start [] [(0xFFF, 0x12)] with pc := 0xFFF })) =
    some (.addressOutOfRange 0x1000 0xFFF) := by decide
/-- TV-CYC1 -/
theorem test_unsupported_8008 : cycle 0x8008 (start [(0, 7)]) =
    .next { (start [(0, 7)]).withFetchWord 16 0x8008 with pc := 0x202, events := [.cycle] } := by rfl
/-- TV-CYC3 -/
theorem test_unsupported_ticks : see (fun t => (t.pc, t.DT, t.ST, t.events))
    (cycle 0x0000 { start [] with DT := 1, ST := 1 }) = some (0x202, 0, 0, [.beep, .cycle]) := by decide
/-- TV-CYC6 -/
theorem test_00E0_events : see (fun t => (t.events, t.buzzer)) (cycle 0x00E0 { start [] with ST := 1 }) =
    some ([.redraw, .beep, .cycle], false) := by decide
/-- TV-DSP1 -/
theorem test_00E0_clears : see (fun t => (t.fb.pixel 5 5, t.fb.pixel 63 31, t.reg 15)) (cycle 0x00E0
    { start [(15, 9)] with fb := (Framebuffer.clear.setPixel 5 5 true).setPixel 63 31 true }) =
    some (false, false, 9) := by decide
/-- TV-CYC7 -/
theorem test_pc_wraps : see (fun t => (t.reg 0, t.pc)) (cycle 0x6001 { start [] with pc := 0xFFFE }) =
    some (1, 0) := by decide
/-- TV-CTL7 -/
theorem test_00EE : see (fun t => (t.pc, t.sp, t.stack[2])) (cycle 0x00EE
    { start [] with sp := 3, stack := State.reset.stack.set 2 0x0456 }) = some (0x456, 2, 0x0456) := by decide
/-- TV-CTL8, HOLD_AT_0 -/
theorem test_00EE_at_0 : see (fun t => (t.pc, t.sp)) (cycle 0x00EE { start [] with
    stack := (State.reset.stack.set 0 0x0222).set 15 0x0246, params := ⟨.wrap, .holdAt0⟩ }) =
    some (0x222, 0) := by decide
/-- TV-CTL2 -/
theorem test_1NNN : see (·.pc) (cycle 0x1201 (start [])) = some 0x201 := by decide
/-- TV-CTL5 -/
theorem test_2NNN : see (fun t => (t.pc, t.sp, t.stack[0])) (cycle 0x2300 { start [] with pc := 0xFFE }) =
    some (0x300, 1, 0x1000) := by decide
/-- TV-CTL6 -/
theorem test_2NNN_wraps : see (fun t => (t.pc, t.sp, t.stack[15])) (cycle 0x2300 { start [] with sp := 15 }) =
    some (0x300, 0, 0x0202) := by decide
/-- TV-CTL11 -/
theorem test_BNNN : see (·.pc) (cycle 0xBFFF (start [(0, 0xFF)])) = some 0x10FE := by decide
/-- TV-CTL12 -/
theorem test_BNNN_adds_V0 : see (·.pc) (cycle 0xB5FF (start [(5, 0xFF)])) = some 0x5FF := by decide
/-- TV-SKP1 -/
theorem test_3XNN : see (·.pc) (cycle 0x3012 (start [(0, 0x12)])) = some 0x204 := by decide
/-- TV-SKP9 -/
theorem test_3XNN_wraps : see (·.pc) (cycle 0x3000 { start [] with pc := 0xFFFC }) = some 0x0000 := by decide
/-- TV-SKP3 -/
theorem test_4XNN_equal : see (·.pc) (cycle 0x4012 (start [(0, 0x12)])) = some 0x202 := by decide
/-- TV-SKP4 -/
theorem test_4XNN : see (·.pc) (cycle 0x4013 (start [(0, 0x12)])) = some 0x204 := by decide
/-- TV-SKP5 -/
theorem test_5XY0 : see (·.pc) (cycle 0x5120 (start [(1, 0x80), (2, 0x80)])) = some 0x204 := by decide
/-- TV-SKP7 -/
theorem test_9XY0 : see (·.pc) (cycle 0x9120 (start [(1, 1), (2, 2)])) = some 0x204 := by decide
/-- TV-SKP8 -/
theorem test_9XY0_same : see (·.pc) (cycle 0x9330 (start [])) = some 0x202 := by decide
/-- TV-ALU1 -/
theorem test_6XNN : see (·.reg 10) (cycle 0x6A42 (start [])) = some 0x42 := by decide
/-- TV-ALU3 -/
theorem test_7XNN : see (fun t => (t.reg 0, t.reg 15)) (cycle 0x7002 (start [(0, 0xFF), (15, 5)])) =
    some (1, 5) := by decide
/-- TV-ALU4 -/
theorem test_8XY0 : see (fun t => (t.reg 0, t.reg 15)) (cycle 0x80F0 (start [(15, 0x99)])) =
    some (0x99, 0x99) := by decide
/-- TV-ALU5 -/
theorem test_8XY1 : see (fun t => (t.reg 0, t.reg 15)) (cycle 0x8011 (start [(0, 0x0F), (1, 0xF0), (15, 0x55)])) =
    some (0xFF, 0x55) := by decide
/-- TV-ALU6 -/
theorem test_8XY2 : see (fun t => (t.reg 0, t.reg 15)) (cycle 0x8012 (start [(0, 0x0F), (1, 0xF0), (15, 0x55)])) =
    some (0x00, 0x55) := by decide
/-- TV-ALU7 -/
theorem test_8XY3 : see (·.reg 0) (cycle 0x8013 (start [(0, 0xFF), (1, 0x0F)])) = some 0xF0 := by decide
/-- TV-ALU8 -/
theorem test_8XY4_carry : see (fun t => (t.reg 0, t.reg 15)) (cycle 0x8014 (start [(0, 0xFF), (1, 1)])) =
    some (0, 0) := by decide
/-- TV-ALU11 -/
theorem test_8XY4_flag_wins : see (·.reg 15) (cycle 0x8F14 (start [(15, 0x10), (1, 0x20)])) = some 1 := by decide
/-- TV-ALU13 -/
theorem test_8XY5_equal : see (fun t => (t.reg 0, t.reg 15)) (cycle 0x8015 (start [(0, 5), (1, 5)])) =
    some (0, 1) := by decide
/-- TV-ALU14 -/
theorem test_8XY5_borrow : see (fun t => (t.reg 0, t.reg 15)) (cycle 0x8015 (start [(0, 4), (1, 5)])) =
    some (0xFF, 0) := by decide
/-- TV-ALU18 -/
theorem test_8XY6 : see (fun t => (t.reg 0, t.reg 15)) (cycle 0x8016 (start [(0, 5), (1, 0xFF)])) =
    some (2, 1) := by decide
/-- TV-ALU20 -/
theorem test_8XY6_flag_wins : see (·.reg 15) (cycle 0x8F06 (start [(15, 3)])) = some 1 := by decide
/-- TV-ALU16 -/
theorem test_8XY7_borrow : see (fun t => (t.reg 0, t.reg 15)) (cycle 0x8017 (start [(0, 5), (1, 3)])) =
    some (0xFE, 0) := by decide
/-- TV-ALU17 -/
theorem test_8XY7 : see (fun t => (t.reg 0, t.reg 15)) (cycle 0x8017 (start [(0, 3), (1, 5)])) =
    some (2, 1) := by decide
/-- TV-ALU21 -/
theorem test_8XYE : see (fun t => (t.reg 0, t.reg 15)) (cycle 0x800E (start [(0, 0x81)])) = some (2, 1) := by decide
/-- TV-ALU22 -/
theorem test_8XYE_no_bit : see (fun t => (t.reg 0, t.reg 15)) (cycle 0x800E (start [(0, 0x7F)])) =
    some (0xFE, 0) := by decide
/-- TV-ALU24 -/
theorem test_CXNN : see (·.reg 0) (stepWith 0xAB ((start []).withFetchWord 16 0xC00F)) = some 0x0B := by decide
/-- TV-MEM1 -/
theorem test_ANNN : see (·.I) (cycle 0xAFFF (start [])) = some 0xFFF := by decide
/-- TV-MEM2 -/
theorem test_FX1E_overflow : see (fun t => (t.I, t.reg 15)) (cycle 0xF01E { start [(0, 1)] with I := 0xFFF }) =
    some (0, 1) := by decide
/-- TV-MEM5 -/
theorem test_FX1E_of_VF : see (fun t => (t.I, t.reg 15)) (cycle 0xFF1E { start [(15, 0xF0)] with I := 0x010 }) =
    some (0x100, 0) := by decide
/-- W9 -/
theorem test_FX29 : see (·.I) (cycle 0xF029 (start [(0, 0xF)])) = some 0x09B := by decide
/-- TV-MEM8 -/
theorem test_FX29_not_masked : see (·.I) (cycle 0xF029 (start [(0, 0xFF)])) = some 0x54B := by decide
/-- TV-MEM12, WRAP -/
theorem test_FX33 : see (fun t => (t.mem.read 0xFFE, t.mem.read 0xFFF, t.mem.read 0x000))
    (cycle 0xF033 { start [(0, 123)] with I := 0xFFE }) = some (1, 2, 3) := by decide
/-- TV-MEM12, FAULT -/
theorem test_FX33_faults : faultOf (cycle 0xF033 (strict { start [(0, 123)] with I := 0xFFE })) =
    some (.addressOutOfRange 0x1000 0x200) := by decide
/-- TV-MEM14 -/
theorem test_FX55 : see (fun t => (t.mem.read 0x300, t.mem.read 0x301, t.I))
    (cycle 0xF055 { start [(0, 0xAA), (1, 0xBB)] with I := 0x300 }) = some (0xAA, 0x00, 0x300) := by decide
/-- TV-MEM15, WRAP -/
theorem test_FX55_wraps : see (fun t => (t.mem.read 0xFFF, t.mem.read 0x000))
    (cycle 0xF155 { start [(0, 1), (1, 2)] with I := 0xFFF }) = some (1, 2) := by decide
/-- TV-MEM16 -/
theorem test_FX65 : see (fun t => (t.reg 0, t.reg 1, t.I)) (cycle 0xF065 { start [(1, 7)] with I := 0x050 }) =
    some (0xF0, 7, 0x050) := by decide
/-- TV-MEM17: `VF` is loaded as a plain register. -/
theorem test_FX65_all : see (fun t => (t.reg 0, t.reg 15))
    (cycle 0xFF65 { start [] [(0x300, 0x10), (0x30F, 0x1F)] with I := 0x300 }) = some (0x10, 0x1F) := by decide
/-- TV-DSP11: the X coordinate is the old `VF`. -/
theorem test_DXYN : see (fun t => (t.fb.pixel 3 2, t.fb.pixel 0 2, t.reg 15))
    (cycle 0xDF11 { start [(15, 3), (1, 2)] [(0x300, 0x80)] with I := 0x300 }) = some (true, false, 0) := by decide
/-- TV-DSP9: one collision is enough for the whole sprite. -/
theorem test_DXYN_collision : see (fun t => (t.fb.pixel 0 0, t.fb.pixel 0 1, t.reg 15)) (cycle 0xD002
    { start [] [(0x300, 0x80), (0x301, 0x80)] with I := 0x300, fb := Framebuffer.clear.setPixel 0 0 true }) =
    some (false, true, 1) := by decide
/-- TV-KEY2, first cycle -/
theorem test_EX9E : see (fun t => (t.pc, t.KM)) (cycle 0xE09E { start [(0, 5)] with KM := 0x0021 }) =
    some (0x204, 0) := by decide
/-- TV-KEY5 -/
theorem test_EX9E_no_key : see (fun t => (t.pc, t.KM)) (cycle 0xE09E { start [(0, 0x10)] with KM := 0xFFFF }) =
    some (0x202, 0) := by decide
/-- TV-KEY7 -/
theorem test_EXA1 : see (fun t => (t.pc, t.KM)) (cycle 0xE0A1 { start [(0, 5)] with KM := 0x0020 }) =
    some (0x202, 0) := by decide
/-- TV-KEY8 -/
theorem test_EXA1_persistent : see (fun t => (t.pc, t.KM))
    (cycle 0xE0A1 { start [(0, 0x10)] with KM := 0xFFFF, KP := .persistent }) = some (0x204, 0xFFFF) := by decide
/-- TV-KEY10 -/
theorem test_FX0A : see (fun t => (t.reg 2, t.KM, t.pc)) (cycle 0xF20A { start [] with KM := 0x0220, KP := .persistent }) =
    some (5, 0, 0x202) := by decide
/-- TV-KEY11 -/
theorem test_FX0A_waits : see (fun t => (t.pc, t.DT)) (cycle 0xF20A { start [] with DT := 3 }) =
    some (0x200, 2) := by decide
/-- TV-KEY12 -/
theorem test_FX07 : see (fun t => (t.reg 1, t.DT)) (cycle 0xF107 { start [] with DT := 2 }) = some (2, 1) := by decide
/-- TV-KEY14 -/
theorem test_FX15 : see (·.DT) (cycle 0xF015 (start [(0, 3)])) = some 2 := by decide
/-- TV-KEY17 -/
theorem test_FX18 : see (fun t => (t.ST, t.events)) (cycle 0xF018 (start [(0, 1)])) = some (0, [.beep, .cycle]) := by
  decide
/-- TV-KEY18 -/
theorem test_FX18_zero : see (fun t => (t.ST, t.events)) (cycle 0xF018 { start [] with ST := 5 }) =
    some (0, [.cycle]) := by decide

/-! ### The host's transactions -/

/-- TV-KEY19 and TV-KEY20 -/
theorem test_keys : ((State.reset.keyDown 3).keyDown 0x10).KM = 0x0008 ∧
    (({ State.reset with KM := 0x0009 } : State).keyUp 0 |>.keyUp 0x1F).KM = 0x0008 := by decide
/-- TV-RST1: `init` with the default font gives the reset state. -/
theorem test_init : State.reset.init Config.defaultFontData = State.reset := by decide
/-- TV-RST3 -/
theorem test_load_rom : loadRomCount [0x60, 0x05] = 2 ∧ (State.reset.loadRom [0x60, 0x05]).mem =
    [(0x200, 0x60), (0x201, 0x05)] := by decide

/-! ### Witnesses: what the hypotheses of each obligation ask for can be met -/

/-- An outcome whose next state is seen to hold `p` is a next state that holds it. -/
theorem next_of {o : Host.Outcome State Fault Refusal} {p : State → Prop} [DecidablePred p]
    (h : see (fun t => decide (p t)) o = some true) : ∃ t, o = .next t ∧ p t := by
  cases o with
  | next t => exact ⟨t, rfl, by simpa [see] using h⟩
  | fault _ => cases h
  | refused _ => cases h

/-- A state whose next step runs `w`. -/
def at_ (w : Nat) (s : State := State.reset) : State := s.withFetchWord 16 w

theorem witness_DecodeOfEncodeIsTheInstruction : (Instr.opDXYN 1 2 15).wellFormed = true ∧
    (Instr.unsupported 0x0000).wellFormed = true := by decide
theorem witness_DecoderSelectsTheFittingTableRow :
    (⟨"8XY4", 0xF00F, 0x8004⟩ ∈ opcodeRows ∧ OpcodeRow.fits ⟨"8XY4", 0xF00F, 0x8004⟩ 0x8AB4 = true) ∧
    ∀ r ∈ opcodeRows, r.fits 0xFFFF = false := by decide
theorem witness_StepRunsTheDecodedInstruction : (Instr.opFX1E 0).wellFormed = true ∧
    InRange (strict { at_ 0 with pc := 0xFFE }) [0xFFE, 0xFFF] ∧
    decode [(at_ 0xF01E).mem.read (0x200 % 4096), (at_ 0xF01E).mem.read ((0x200 + 1) % 4096)] =
      .ok (.opFX1E 0, []) := by unfold InRange; decide
/-- The last fetch in range under FAULT, and a fetch that wraps under WRAP. -/
theorem witness_FetchIsBigEndian : InRange (strict { start [] with pc := 0xFFE }) [0xFFE, 0xFFE + 1] ∧
    InRange { start [] with pc := 0xFFFF } [0xFFFF, 0xFFFF + 1] := by unfold InRange; decide
/-- FX65 whose last access is the last byte of memory; then one with the next address out of range; then a fetch out of
range. -/
theorem witness_CycleIsTotal :
    InRange (strict (at_ 0xF165 { start [] with I := 0xFFE })) (cycleAccesses (strict (at_ 0xF165 { start [] with I := 0xFFE }))) ∧
    FirstOut (cycleAccesses (strict (at_ 0xF165 { start [] with I := 0xFFF }))) 0x1000 ∧
    FirstOut (cycleAccesses (strict { start [] with pc := 0xFFF })) 0x1000 := by
  refine ⟨by unfold InRange; decide, ⟨by decide, [0x200, 0x201, 0xFFF], [], by decide, by decide⟩,
    ⟨by decide, [0xFFF], [], by decide, by decide⟩⟩
theorem witness_EveryCycleTicksTheTimers : ∃ t, step (at_ 0xF018 (start [(0, 1)])) = .next t ∧ t.ST = 0 :=
  next_of (by decide)
theorem witness_CycleEventsInOrder : fetch (at_ 0x00E0 { start [] with ST := 1 }) = .ok 0x00E0 ∧
    ∃ t, step (at_ 0x00E0 { start [] with ST := 1 }) = .next t ∧ t.events = [.redraw, .beep, .cycle] :=
  ⟨by decide, next_of (by decide)⟩
/-- One word of each of the four families, at its boundary. -/
theorem witness_UnsupportedWordOnlyAdvances : fetch (at_ 0x0000) = .ok 0x0000 ∧ fetch (at_ 0x8008) = .ok 0x8008 ∧
    fetch (at_ 0xE09F) = .ok 0xE09F ∧ fetch (at_ 0xF066) = .ok 0xF066 ∧
    (0x0000 % 256 ≠ 0xE0 ∧ 0x0000 % 256 ≠ 0xEE) ∧ 0x8008 / 4096 = 8 ∧ 0xE09F / 4096 = 0xE ∧ 0xE09F % 256 ≠ 0x9E ∧
    0xF066 / 4096 = 0xF := by decide
/-- An image one byte too long: its last copied byte is number 2047, and 0xA00 is past it. -/
theorem witness_LoadRomCopiesTheImage : State.reset.mem.wf ∧
    2047 < (List.replicate 2049 (0x11 : Byte)).length ∧ ¬ (2049 ≤ 2048) ∧ 0x1FF < 0x200 ∧
    0x200 + [(0x11 : Byte)].length ≤ 0x201 := by
  rw [List.length_replicate]; decide
theorem witness_ReadPorts : ((2047 : Fin 2048).val = (31 : Fin 32).val * 64 + (63 : Fin 64).val) ∧
    (0 : Fin 2048).val = (0 : Fin 32).val * 64 + (0 : Fin 64).val := by decide
/-- The invariant holds at the boundary of `I`, and such a state has a step. -/
theorem witness_EveryStepKeepsTheInvariant : (at_ 0xF01E { start [(0, 1)] with I := 0xFFF }).Inv ∧
    ∃ t, step (at_ 0xF01E { start [(0, 1)] with I := 0xFFF }) = .next t ∧ t.I = 0 :=
  ⟨by unfold State.Inv; decide, next_of (by decide)⟩
theorem witness_SessionsGoThroughUnderWrap : State.reset.Inv ∧ State.reset.params.addrOob = .wrap := by
  unfold State.Inv; decide
theorem witness_LegalSessionsGoThroughUnderWrap : Session.legal [.init Config.defaultFontData, .keyDown 15,
    .loadRom [0x60, 0x05], .step 0xAB, .keyUp 15, .setKeyPolicy .persistent, .step 0] = true ∧
    Session.legal [.init Config.defaultFontData, .step 0, .loadRom []] = false := by decide
theorem witness_AFaultEndsTheSession : runSession [.keyDown 1, .step 0] (strict { start [] with pc := 0x1000 }) =
    .fault (.addressOutOfRange 0x1000 0x1000) := by rfl
/-- Both alternatives at their boundary: `sp` = 15 under WRAP_TO_15, `sp` = 14 under HOLD_AT_0. -/
theorem witness_CallThenReturnComesBack :
    ({ start [] with sp := 15 } : State).params.stackUnderflow = .wrapTo15 ∧
    (∃ t, exec (.op2NNN 0x300) { start [] with sp := 15 } = .next t ∧ t.sp = 0) ∧ (14 : Fin 16).val ≠ 15 ∧
    ∃ t, exec (.op2NNN 0x300) { start [] with sp := 14, params := ⟨.wrap, .holdAt0⟩ } = .next t ∧ t.sp = 15 :=
  ⟨by decide, next_of (by decide), by decide, next_of (by decide)⟩
theorem witness_StackIsARingOfSixteen :
    (({ start [] with sp := 9 } : State).params.stackUnderflow = .wrapTo15 ∧ (List.replicate 16 (7 : Word)).length ≤ 16) ∧
    (({ start [] with params := ⟨.wrap, .holdAt0⟩ } : State).params.stackUnderflow = .holdAt0 ∧
      (start []).sp = 0 ∧ (List.replicate 15 (7 : Word)).length ≤ 15) ∧ (List.replicate 16 (7 : Word)).length = 16 := by
  decide
/-- `X` = 14 and `X` = 15 of the arithmetic statements: the result is in `VX`, and only the flag is in `VF`. -/
theorem witness_results_and_flags : (14 : Reg) ≠ 15 ∧
    see (fun t => (t.reg 14, t.reg 15)) (exec (.op8XY4 14 1) (start [(14, 0x80), (1, 0x7F)])) = some (0xFF, 1) ∧
    see (·.reg 15) (exec (.op8XY5 15 1) (start [(15, 9), (1, 2)])) = some 1 ∧
    see (·.reg 15) (exec (.op8XYE 15 15) (start [(15, 0x80)])) = some 1 := by decide
theorem witness_RandomByteIsMasked : ({ start [] with rnd := some 0xAB } : State).rnd = some 0xAB := by decide
/-- `I` = 0xFFD is the last base in range under FAULT, 0xFFE wraps under WRAP and faults under FAULT, and a base above
0xFFF faults on itself. -/
theorem witness_DecimalDigitsAreStored : (start []).mem.wf ∧
    InRange (strict { start [] with I := 0xFFD }) [0xFFD, 0xFFD + 1, 0xFFD + 2] ∧
    InRange { start [] with I := 0xFFE } [0xFFE, 0xFFE + 1, 0xFFE + 2] ∧ 4096 ≤ 0xFFE + 2 ∧
    faultOf (exec (.opFX33 0) (strict { start [] with I := 0xFFE, pc := 0x202 })) =
      some (.addressOutOfRange (max 0xFFE 4096) (0x202 - 2)) ∧
    faultOf (exec (.opFX33 0) (strict { start [] with I := 0x1234, pc := 0x202 })) =
      some (.addressOutOfRange (max 0x1234 4096) (0x202 - 2)) := by unfold InRange; decide
theorem witness_RegistersAreStored : (start []).mem.wf ∧ 0xFF0 + (15 : Reg).val < 4096 ∧
    (start []).params.addrOob = .wrap ∧ (strict (start [])).params.addrOob = .fault ∧ 4096 ≤ 0xFF1 + (15 : Reg).val ∧
    faultOf (exec (.opFX55 15) (strict { start [] with I := 0xFF1, pc := 0x202 })) =
      some (.addressOutOfRange (max 0xFF1 4096) (0x202 - 2)) := by decide
/-- W5, at a base that wraps. -/
theorem witness_RegistersAreLoaded : (start []).mem.wf ∧ 0xFF0 + (15 : Reg).val < 4096 ∧
    4096 ≤ 0x1000 + (0 : Reg).val ∧
    faultOf (exec (.opFX65 0) (strict { start [] with I := 0x1000, pc := 0x202 })) =
      some (.addressOutOfRange (max 0x1000 4096) (0x202 - 2)) ∧
    ∃ t, exec (.opFX55 3) { start [(0, 0x11), (3, 0x44)] with I := 0xFFE } = .next t ∧ t.I = 0xFFE ∧
      t.mem.read 0x001 = 0x44 :=
  ⟨by decide, by decide, by decide, by decide, next_of (by decide)⟩
/-- TV-DSP12, the first draw of W2 and the second. -/
theorem witness_DrawingTwiceErases : ∃ t, exec (.opDXYN 0 0 5) { start [] with I := 0x050 } = .next t ∧
    t.reg 15 = 0 ∧ t.mem = (start []).mem ∧ t.I = 0x050 ∧ t.reg 0 = 0 ∧ see (·.reg 15) (exec (.opDXYN 0 0 5) t) = some 1 :=
  next_of (by decide)
theorem witness_WaitForKey : (start []).KM = 0 ∧ ({ start [] with KM := 0x8000 } : State).KM ≠ 0 ∧
    see (·.reg 15) (exec (.opFX0A 15) { start [] with KM := 0x8000 }) = some 15 := by decide
/-- The key numbers on both sides of the boundary, under both policies. -/
theorem witness_KeySkips : see (·.pc) (exec (.opEX9E 0) { start [(0, 15)] with KM := 0x8000 }) = some 0x202 ∧
    see (·.pc) (exec (.opEX9E 0) { start [(0, 16)] with KM := 0xFFFF }) = some 0x200 ∧
    see (·.KM) (exec (.opEXA1 0) { start [(0, 15)] with KM := 0x8000, KP := .persistent }) = some 0x8000 := by decide
theorem witness_LoadedTimerTicksInTheSameCycle : fetch (at_ 0xF015) = .ok (encode (.opFX15 0)) ∧
    fetch (at_ 0xFF18) = .ok (encode (.opFX18 15)) := by decide
theorem witness_KeyWaitHoldsThePc : (at_ 0xF20A).KM = 0 ∧ fetch (at_ 0xF20A) = .ok (encode (.opFX0A 2)) := by decide
theorem witness_OnlyThreeInstructionsChangeI : fetch (at_ 0xAFFF) = .ok 0xAFFF ∧
    ∃ t, step (at_ 0xAFFF) = .next t ∧ t.I ≠ (at_ 0xAFFF).I := ⟨by decide, next_of (by decide)⟩
/-- A byte that `FX33` changes past the top of memory, and one that `FX55` changes. -/
theorem witness_MemoryChangesOnlyAtStores :
    ((at_ 0xF033 { start [(0, 9)] with I := 0xFFE }).mem.wf ∧ fetch (at_ 0xF033 { start [(0, 9)] with I := 0xFFE }) = .ok 0xF033 ∧
      ∃ t, step (at_ 0xF033 { start [(0, 9)] with I := 0xFFE }) = .next t ∧ t.mem.read 0 ≠ 0) ∧
    fetch (at_ 0xF155 { start [(1, 9)] with I := 0xFFF }) = .ok 0xF155 ∧
      ∃ t, step (at_ 0xF155 { start [(1, 9)] with I := 0xFFF }) = .next t ∧ t.mem.read 0 ≠ 0 :=
  ⟨⟨by decide, by decide, next_of (by decide)⟩, by decide, next_of (by decide)⟩
theorem witness_OnlyTwoInstructionsChangeAPixel : fetch (at_ 0xD005 { start [] with I := 0x050 }) = .ok 0xD005 ∧
    ∃ t, step (at_ 0xD005 { start [] with I := 0x050 }) = .next t ∧ t.fb.pixel 0 0 ≠ false :=
  ⟨by decide, next_of (by decide)⟩
theorem witness_OnlyCallAndReturnTouchTheStack : fetch (at_ 0x2300 { start [] with sp := 15 }) = .ok 0x2300 ∧
    ∃ t, step (at_ 0x2300 { start [] with sp := 15 }) = .next t ∧ t.sp ≠ 15 ∧ t.stack[15] ≠ 0 :=
  ⟨by decide, next_of (by decide)⟩
theorem witness_StepsOnlyClearTheKeyMask : fetch (at_ 0xE0A1 { start [] with KM := 1 }) = .ok 0xE0A1 ∧
    ∃ t, step (at_ 0xE0A1 { start [] with KM := 1 }) = .next t ∧ t.KM ≠ 1 := ⟨by decide, next_of (by decide)⟩
theorem witness_OnlyTwoInstructionsLoadATimer : (fetch (at_ 0xF015 (start [(0, 3)])) = .ok 0xF015 ∧
      ∃ t, step (at_ 0xF015 (start [(0, 3)])) = .next t ∧ t.DT.toNat ≠ (0 : Byte).toNat - 1) ∧
    fetch (at_ 0xF018 (start [(0, 3)])) = .ok 0xF018 ∧
      ∃ t, step (at_ 0xF018 (start [(0, 3)])) = .next t ∧ t.ST.toNat ≠ (0 : Byte).toNat - 1 :=
  ⟨⟨by decide, next_of (by decide)⟩, by decide, next_of (by decide)⟩
theorem witness_StepsWriteOnlyDestinationRegisters : fetch (at_ 0x8014 (start [(1, 2)])) = .ok 0x8014 ∧
    ∃ t, step (at_ 0x8014 (start [(1, 2)])) = .next t ∧ t.reg 0 ≠ 0 ∧ t.reg 15 ≠ 0 := ⟨by decide, next_of (by decide)⟩
theorem witness_ControlTransferIsListed : fetch (at_ 0x3000) = .ok 0x3000 ∧
    ∃ t, step (at_ 0x3000) = .next t ∧ t.pc = (at_ 0x3000).pc + 4 := ⟨by decide, next_of (by decide)⟩
theorem witness_TheSoundTimerIsNeverRead : ∃ t, step (at_ 0xF018 { start [(0, 2)] with ST := 9 }) = .next t ∧
    t.ST = 1 := next_of (by decide)
theorem witness_TheRandomByteReachesOnlyCXNN : fetch (at_ 0x6001) = .ok 0x6001 ∧
    (decodeWord 0x6001).mnemonic ≠ "CXNN" := by decide

end Sys2Proof.Tests
end

section
/-! SUPPORT. Proofs of the cycle's statements (40_cycle.md): the tick that ends every cycle, and the unsupported class. -/

namespace Sys2Proof

/-! ### The class of R77 in natural numbers -/

theorem extract_family_eq_iff (w : Word) (k : Nibble) : w.extractLsb' 12 4 = k ↔ w.toNat / 4096 = k.toNat := by
  rw [← BitVec.toNat_inj, BitVec.extractLsb'_toNat, Nat.shiftRight_eq_div_pow, Nat.mod_eq_of_lt (by omega)]

theorem extract_low_eq_iff {l : Nat} (w : Word) (k : BitVec l) : w.extractLsb' 0 l = k ↔ w.toNat % 2 ^ l = k.toNat := by
  rw [← BitVec.toNat_inj, BitVec.extractLsb'_toNat, Nat.shiftRight_zero]

/-- The unsupported class of the model is the one that R77 lists by family and low digits. -/
theorem unsupportedWord_iff (w : Word) : unsupportedWord w = true ↔
    (w.toNat / 4096 = 0x0 ∧ w.toNat % 256 ≠ 0xE0 ∧ w.toNat % 256 ≠ 0xEE) ∨
    (w.toNat / 4096 = 0x8 ∧ w.toNat % 16 ∈ [0x8, 0x9, 0xA, 0xB, 0xC, 0xD, 0xF]) ∨
    (w.toNat / 4096 = 0xE ∧ w.toNat % 256 ≠ 0x9E ∧ w.toNat % 256 ≠ 0xA1) ∨
    (w.toNat / 4096 = 0xF ∧ w.toNat % 256 ∉ [0x07, 0x0A, 0x15, 0x18, 0x1E, 0x29, 0x33, 0x55, 0x65]) := by
  simp [unsupportedWord, extract_family_eq_iff, extract_low_eq_iff, or_assoc]

namespace Machine

/-! ### The cycle of an unsupported word -/

/-- Execute of an unsupported word is the identity (R105). -/
theorem exec_unsupported (w : Word) (s : State) : exec (.unsupported w) s = .next s := rfl

/-- Between the advance of `pc` and the tick, the cycle of an unsupported word does nothing (R101, R105). -/
theorem step_unsupported {s : State} {w : Word} (hf : fetch s = .ok w) (hw : unsupportedWord w = true) :
    step s = .next (endCycle (beginCycle s)) := by
  simp only [step_of_fetch hf, decodeWord_unsupported hw, exec_unsupported]

/-! ### The end of a cycle in natural numbers (R106, R109) -/

theorem endCycle_DT_toNat (u : State) : (endCycle u).DT.toNat = u.DT.toNat - 1 := by
  rw [endCycle_DT, tickDown_toNat]

theorem endCycle_ST_toNat (u : State) : (endCycle u).ST.toNat = u.ST.toNat - 1 := by
  rw [endCycle_ST, tickDown_toNat]

theorem endCycle_events_toNat (u : State) :
    (endCycle u).events = u.events ++ (if u.ST.toNat = 1 then [.beep] else []) ++ [.cycle] := by
  have beep_iff : u.ST.toNat = 1 ↔ u.ST = 1 := BitVec.toNat_inj (y := 1)
  simp only [endCycle_events, beep_iff]

end Machine
end Sys2Proof

open Sys2Proof Sys2Proof.Machine

/-- Settles O8: a step that goes on ends in `endCycle` of the state after execute, which is the tick and then CYCLE. -/
theorem everyCycleTicksTheTimers : Obligations.EveryCycleTicksTheTimers := by
  intro s t hstep
  obtain ⟨w, u, hfetch, hexec, rfl⟩ := step_next hstep
  exact ⟨w, u, hfetch, hexec, endCycle_DT_toNat u, endCycle_ST_toNat u, endCycle_events_toNat u⟩

/-- Settles O10: a word of R77's class decodes to `unsupported`, whose execute is the identity, so the step is
`beginCycle` and then `endCycle`, and neither writes a part of the state that R105 keeps. -/
theorem unsupportedWordOnlyAdvances : Obligations.UnsupportedWordOnlyAdvances := by
  refine ⟨exec_unsupported, fun s w hfetch hclass => ?_⟩
  have hstep : step s = .next (endCycle (beginCycle s)) :=
    step_unsupported hfetch ((unsupportedWord_iff w).mpr hclass)
  refine ⟨_, hstep, ?pc, endCycle_DT_toNat _, endCycle_ST_toNat _, endCycle_events_toNat _, ?frame⟩
  case pc => rw [endCycle_pc, beginCycle_pc]
  case frame => simp

end

section
/-! SUPPORT. Proofs of the statements of control transfer (41_control.md): the jump. -/

namespace Sys2Proof.Machine

/-- A 12-bit operand keeps its value as a word. -/
theorem zextAddr_toNat (a : Addr12) : (zextAddr a).toNat = a.toNat :=
  BitVec.toNat_setWidth_of_le (by decide)

/-- A write of `pc` keeps every register and every part but `pc`. -/
theorem frame_setPc (s : State) (a : Word) : Frame [] [.pc] s (s.setPc a) := by
  refine ⟨fun r _ => State.reg_setPc s a r, fun p hp => ?_⟩
  cases p
  case pc => exact absurd (List.mem_singleton_self _) hp
  all_goals simp [Part.kept]

/-- Execute of `1NNN` writes the operand to `pc` (R121). -/
theorem exec_op1NNN (nnn : Addr12) (s : State) : exec (.op1NNN nnn) s = .next (s.setPc (zextAddr nnn)) := rfl

end Sys2Proof.Machine

open Sys2Proof Sys2Proof.Machine

/-- Settles O22: execute of `1NNN` is one write of `pc`, whose value is the operand and whose frame is `frame_setPc`. -/
theorem jumpSetsPc : Obligations.JumpSetsPc := by
  intro nnn s
  refine ⟨s.setPc (zextAddr nnn), exec_op1NNN nnn s, ?_, frame_setPc s _⟩
  rw [State.setPc_pc, zextAddr_toNat]

end

section
/-! SUPPORT. Proofs of the statements of conditional skips (42_skip.md): the skip on a byte. -/

namespace Sys2Proof.Machine

/-! ### The skip itself -/

/-- A skip that happens adds 2 to `pc` modulo 2^16, one that does not keeps it. -/
theorem skipIf_pc_toNat (s : State) (c : Bool) :
    (s.skipIf c).pc.toNat = (s.pc.toNat + if c then 2 else 0) % 65536 := by
  cases c
  case true => exact BitVec.toNat_add s.pc 2
  case false => exact (Nat.mod_eq_of_lt s.pc.isLt).symm

/-- Whether it happens or not, a skip keeps every register and every part but `pc`. -/
theorem frame_skipIf (s : State) (c : Bool) : Frame [] [.pc] s (s.skipIf c) := by
  rw [State.skipIf_eq]
  exact frame_setPc s _

/-! ### The two instructions -/

/-- Execute of `3XNN` is a skip on equality (R130). -/
theorem exec_op3XNN (x : Reg) (nn : Byte) (s : State) :
    exec (.op3XNN x nn) s = .next (s.skipIf (s.reg x == nn)) := rfl

/-- Execute of `4XNN` is a skip on inequality (R131). -/
theorem exec_op4XNN (x : Reg) (nn : Byte) (s : State) :
    exec (.op4XNN x nn) s = .next (s.skipIf (s.reg x != nn)) := rfl

end Sys2Proof.Machine

open Sys2Proof Sys2Proof.Machine

/-- Settles O28: both instructions are one `skipIf`, whose `pc` is `skipIf_pc_toNat` and whose frame is `frame_skipIf`;
their conditions are the test `VX = NN` and its negation. -/
theorem skipOnAByte : Obligations.SkipOnAByte := by
  intro x nn s
  refine ⟨⟨_, exec_op3XNN x nn s, frame_skipIf s _, ?skipsIfEqual⟩,
    ⟨_, exec_op4XNN x nn s, frame_skipIf s _, ?skipsIfNotEqual⟩⟩
  case skipsIfEqual => simp only [skipIf_pc_toNat, beq_iff_eq]
  case skipsIfNotEqual => simp only [skipIf_pc_toNat, bne_iff_ne, ne_eq, ite_not]

end

section
/-! SUPPORT. Proofs of the statements of loads and arithmetic (43_alu.md): one register written, or a result and a flag. -/

namespace Sys2Proof.Machine

/-! ### Frames of register writes -/

/-- A part kept by two updates in a row is kept by both together. -/
theorem Part.kept_trans {p : Part} {s t u : State} (hst : p.kept s t) (htu : p.kept t u) : p.kept s u := by
  cases p
  case fb => exact fun x y => (htu x y).trans (hst x y)
  case mem => exact fun a => (htu a).trans (hst a)
  case params => exact ⟨htu.1.trans hst.1, htu.2.trans hst.2⟩
  all_goals exact Eq.trans htu hst

/-- Two updates in a row write at most what either of them writes. -/
theorem Frame.trans {regs regs' : List Reg} {written written' : List Part} {s t u : State}
    (hst : Frame regs written s t) (htu : Frame regs' written' t u) :
    Frame (regs ++ regs') (written ++ written') s u := by
  obtain ⟨hregs, hparts⟩ := hst
  obtain ⟨hregs', hparts'⟩ := htu
  refine ⟨fun r hr => ?_, fun p hp => ?_⟩
  · rw [List.mem_append, not_or] at hr
    exact (hregs' r hr.2).trans (hregs r hr.1)
  · rw [List.mem_append, not_or] at hp
    exact Part.kept_trans (hparts p hp.1) (hparts' p hp.2)

/-- A write of a register keeps every other register and every part. -/
theorem frame_setReg (s : State) (x : Reg) (b : Byte) : Frame [x] [] s (s.setReg x b) := by
  refine ⟨fun r hr => State.reg_setReg_ne s b (by simpa using hr), fun p _ => ?_⟩
  cases p
  all_goals simp [Part.kept]

/-- A result and a flag write `VX` and `VF` only (R21). -/
theorem frame_setRegFlag (s : State) (x : Reg) (result flag : Byte) :
    Frame [x, 15] [] s (s.setRegFlag x result flag) :=
  (frame_setReg s x result).trans (frame_setReg _ regF flag)

/-! ### A result and a flag, register by register (R21) -/

/-- The flag is written last, so `VF` holds it even when `VX` is `VF`. -/
theorem reg_setRegFlag_flag (s : State) (x : Reg) (result flag : Byte) :
    (s.setRegFlag x result flag).reg 15 = flag :=
  State.reg_setReg_same _ _ _

theorem reg_setRegFlag_result (s : State) {x : Reg} (result flag : Byte) (hx : x ≠ 15) :
    (s.setRegFlag x result flag).reg x = result := by
  rw [State.reg_setRegFlag, if_neg (show x ≠ regF from hx), if_pos rfl]

/-- Naturals that are the result's and the flag's values are what `VX`, unless it is `VF`, and `VF` hold. -/
theorem setRegFlag_toNat (s : State) (x : Reg) {result flag : Byte} {n f : Nat} (hn : result.toNat = n)
    (hf : flag.toNat = f) :
    (x ≠ 15 → ((s.setRegFlag x result flag).reg x).toNat = n) ∧
      ((s.setRegFlag x result flag).reg 15).toNat = f ∧ Frame [x, 15] [] s (s.setRegFlag x result flag) := by
  refine ⟨fun hx => ?_, ?_, frame_setRegFlag s x result flag⟩
  · rw [reg_setRegFlag_result s result flag hx, hn]
  · rw [reg_setRegFlag_flag, hf]

/-! ### The results and the flags in natural numbers (R140) -/

/-- A difference of bytes borrows 256 and is reduced modulo 256. -/
theorem sub_toNat (a b : Byte) : (a - b).toNat = (a.toNat + 256 - b.toNat) % 256 := by
  rw [BitVec.toNat_sub]
  have := b.isLt
  congr 1
  omega

theorem shiftRight_one_toNat (a : Byte) : (a >>> 1).toNat = a.toNat / 2 := by
  rw [BitVec.toNat_ushiftRight, Nat.shiftRight_eq_div_pow, pow_one]

theorem shiftLeft_one_toNat (a : Byte) : (a <<< 1).toNat = a.toNat * 2 % 256 := by
  rw [BitVec.toNat_shiftLeft, Nat.shiftLeft_eq, pow_one]

theorem flagOf_toNat (b : Bool) : (flagOf b).toNat = b.toNat := by
  cases b <;> rfl

theorem noCarry_toNat (a b : Byte) : (noCarry a b).toNat = if a.toNat + b.toNat ≤ 0xFF then 1 else 0 := by
  rw [noCarry, flagOf_toNat, Bool.toNat, Bool.cond_decide]

theorem noBorrow_toNat (a b : Byte) : (noBorrow a b).toNat = if b.toNat ≤ a.toNat then 1 else 0 := by
  rw [noBorrow, flagOf_toNat, Bool.toNat, Bool.cond_decide]

theorem lowBit_toNat (a : Byte) : (lowBit a).toNat = a.toNat % 2 := by
  rw [lowBit, flagOf_toNat, BitVec.getLsbD, Nat.toNat_testBit, pow_zero, Nat.div_one]

theorem highBit_toNat (a : Byte) : (highBit a).toNat = a.toNat / 128 := by
  rw [highBit, flagOf_toNat, BitVec.getLsbD, Nat.toNat_testBit]
  have := a.isLt
  omega

/-! ### The instructions -/

/-- Execute of `6XNN` writes the operand to `VX` (R141). -/
theorem exec_op6XNN (x : Reg) (nn : Byte) (s : State) : exec (.op6XNN x nn) s = .next (s.setReg x nn) := rfl

/-- Execute of `7XNN` writes the sum to `VX` (R142). -/
theorem exec_op7XNN (x : Reg) (nn : Byte) (s : State) :
    exec (.op7XNN x nn) s = .next (s.setReg x (s.reg x + nn)) := rfl

/-- Execute of `8XY0` copies `VY` to `VX` (R143). -/
theorem exec_op8XY0 (x y : Reg) (s : State) : exec (.op8XY0 x y) s = .next (s.setReg x (s.reg y)) := rfl

/-- Execute of `8XY4` writes the sum and "no carry" (R147). -/
theorem exec_op8XY4 (x y : Reg) (s : State) :
    exec (.op8XY4 x y) s = .next (s.setRegFlag x (s.reg x + s.reg y) (noCarry (s.reg x) (s.reg y))) := rfl

/-- Execute of `8XY5` writes `VX - VY` and "no borrow" (R148). -/
theorem exec_op8XY5 (x y : Reg) (s : State) :
    exec (.op8XY5 x y) s = .next (s.setRegFlag x (s.reg x - s.reg y) (noBorrow (s.reg x) (s.reg y))) := rfl

/-- Execute of `8XY7` writes `VY - VX` and "no borrow" (R149). -/
theorem exec_op8XY7 (x y : Reg) (s : State) :
    exec (.op8XY7 x y) s = .next (s.setRegFlag x (s.reg y - s.reg x) (noBorrow (s.reg y) (s.reg x))) := rfl

/-- Execute of `8XY6` writes `VX` shifted right and its low bit, whatever `Y` is (R150). -/
theorem exec_op8XY6 (x y : Reg) (s : State) :
    exec (.op8XY6 x y) s = .next (s.setRegFlag x (s.reg x >>> 1) (lowBit (s.reg x))) := rfl

/-- Execute of `8XYE` writes `VX` shifted left and its high bit, whatever `Y` is (R151). -/
theorem exec_op8XYE (x y : Reg) (s : State) :
    exec (.op8XYE x y) s = .next (s.setRegFlag x (s.reg x <<< 1) (highBit (s.reg x))) := rfl

end Sys2Proof.Machine

open Sys2Proof Sys2Proof.Machine

/-- Settles O30: each instruction is one `setReg`, whose value is read back from `VX` and whose frame is
`frame_setReg`. -/
theorem loadsAndImmediateAdd : Obligations.LoadsAndImmediateAdd := by
  intro x y nn s
  refine ⟨⟨_, exec_op6XNN x nn s, State.reg_setReg_same s x _, frame_setReg s x _⟩,
    ⟨_, exec_op7XNN x nn s, ?sum, frame_setReg s x _⟩,
    ⟨_, exec_op8XY0 x y s, State.reg_setReg_same s x _, frame_setReg s x _⟩⟩
  case sum => rw [State.reg_setReg_same, BitVec.toNat_add]

/-- Settles O32: one `setRegFlag` of the sum and of "no carry". -/
theorem addSetsNoCarry : Obligations.AddSetsNoCarry := by
  intro x y s
  exact ⟨_, exec_op8XY4 x y s, setRegFlag_toNat s x (BitVec.toNat_add _ _) (noCarry_toNat _ _)⟩

/-- Settles O33: one `setRegFlag` each, of the difference and of "no borrow", with the operands exchanged in `8XY7`. -/
theorem subtractSetsNoBorrow : Obligations.SubtractSetsNoBorrow := by
  intro x y s
  exact ⟨⟨_, exec_op8XY5 x y s, setRegFlag_toNat s x (sub_toNat _ _) (noBorrow_toNat _ _)⟩,
    ⟨_, exec_op8XY7 x y s, setRegFlag_toNat s x (sub_toNat _ _) (noBorrow_toNat _ _)⟩⟩

/-- Settles O34: one `setRegFlag` each, of the shifted `VX` and of the bit shifted out; `Y` is in neither. -/
theorem shiftSetsTheBitShiftedOut : Obligations.ShiftSetsTheBitShiftedOut := by
  intro x y s
  exact ⟨⟨_, exec_op8XY6 x y s, setRegFlag_toNat s x (shiftRight_one_toNat _) (lowBit_toNat _)⟩,
    ⟨_, exec_op8XYE x y s, setRegFlag_toNat s x (shiftLeft_one_toNat _) (highBit_toNat _)⟩⟩

end

section
/-! SUPPORT. Proof of the statement of the load of `I` (44_index_memory.md): one write of `I`. -/

namespace Sys2Proof.Machine

/-- A write of `I` keeps every register and every part but `I`. -/
theorem frame_setI (s : State) (a : Word) : Frame [] [.I] s (s.setI a) := by
  refine ⟨fun r _ => State.reg_setI s a r, fun p hp => ?_⟩
  cases p
  case I => exact absurd (List.mem_singleton_self _) hp
  all_goals simp [Part.kept]

/-- Execute of `ANNN` writes the zero-extended address to `I` (R170). -/
theorem exec_opANNN (nnn : Addr12) (s : State) : exec (.opANNN nnn) s = .next (s.setI (zextAddr nnn)) := rfl

end Sys2Proof.Machine

open Sys2Proof Sys2Proof.Machine

/-- Settles O36: one `setI`, whose value is the zero-extended address and whose frame is `frame_setI`. -/
theorem loadIndex : Obligations.LoadIndex := by
  intro nnn s
  refine ⟨s.setI (zextAddr nnn), exec_opANNN nnn s, ?_, frame_setI s _⟩
  rw [State.setI_I, zextAddr_toNat]

end

section
/-! SUPPORT. Proof of the statement of the clear (45_display.md): a write of the framebuffer and one event. -/

namespace Sys2Proof.Machine

/-- A write of the framebuffer keeps every register and every part but the framebuffer. -/
theorem frame_setFb (s : State) (fb : Framebuffer) : Frame [] [.fb] s (s.setFb fb) := by
  refine ⟨fun r _ => State.reg_setFb s fb r, fun p hp => ?_⟩
  cases p
  case fb => exact absurd (List.mem_singleton_self _) hp
  all_goals simp [Part.kept]

/-- An event emitted keeps every register and every part but the events. -/
theorem frame_emit (s : State) (e : Event) : Frame [] [.events] s (s.emit e) := by
  refine ⟨fun r _ => State.reg_emit s e r, fun p hp => ?_⟩
  cases p
  case events => exact absurd (List.mem_singleton_self _) hp
  all_goals simp [Part.kept]

/-- Execute of `00E0` writes the cleared framebuffer and emits REDRAW, and does not look at the ignored nibble (R181). -/
theorem exec_op00E0 (n : Nibble) (s : State) :
    exec (.op00E0 n) s = .next ((s.setFb Framebuffer.clear).emit .redraw) := rfl

end Sys2Proof.Machine

open Sys2Proof Sys2Proof.Machine

/-- Settles O41: one `setFb` of the cleared framebuffer, whose pixels are all false, and one `emit`; the frame is that of
the two updates in a row. -/
theorem clearScreen : Obligations.ClearScreen := by
  intro n s
  refine ⟨_, exec_op00E0 n s, fun x y => ?pixels, ?events, (frame_setFb s _).trans (frame_emit _ _)⟩
  case pixels => rw [State.emit_fb, State.setFb_fb, Framebuffer.pixel_clear]
  case events => rw [State.emit_events, State.setFb_events]

end

section
/-! SUPPORT. Proof of the statement of `key_down` (60_exceptions.md): one write of the key mask. -/

namespace Sys2Proof.Machine

/-- A write of `KM` keeps every register and every part but `KM`. -/
theorem frame_setKM (s : State) (m : Word) : Frame [] [.KM] s (s.setKM m) := by
  refine ⟨fun r _ => State.reg_setKM s m r, fun p hp => ?_⟩
  cases p
  case KM => exact absurd (List.mem_singleton_self _) hp
  all_goals simp [Part.kept]

/-- A bit of the mask after `key_down(k)`; an index `k` of 16 or more is no `j` (R222). -/
theorem keyDown_KM_getLsbD (s : State) (k : Nat) {j : Nat} (hj : j < 16) :
    (s.keyDown k).KM.getLsbD j = (decide (j = k) || s.KM.getLsbD j) := by
  rw [State.keyDown_eq, State.setKM_KM]
  split
  case isTrue hk => rw [BitVec.getLsbD_or, keyBit_getLsbD hk hj, Bool.or_comm]
  case isFalse hk =>
    have hne : j ≠ k := by omega
    rw [decide_eq_false hne, Bool.false_or]

end Sys2Proof.Machine

open Sys2Proof Sys2Proof.Machine

/-- Settles O14: `key_down` is one `setKM`, whose frame is `frame_setKM` and whose bits are `keyDown_KM_getLsbD`. -/
theorem keyDownSetsOneBit : Obligations.KeyDownSetsOneBit := by
  intro s k
  refine ⟨?frame, fun j hj => ?bit⟩
  case frame => rw [State.keyDown_eq]; exact frame_setKM s _
  case bit => rw [keyDown_KM_getLsbD s k hj, Bool.or_eq_true, decide_eq_true_iff]

end

section
/-! SUPPORT. Proof of the statement of `load_rom` (70_reset_and_hazards.md): one write of memory, and the fetch after `init`. -/

namespace Sys2Proof.Machine

/-- A write of memory keeps every register and every part but memory. -/
theorem frame_setMem (s : State) (m : Memory) : Frame [] [.mem] s (s.setMem m) := by
  refine ⟨fun r _ => State.reg_setMem s m r, fun p hp => ?_⟩
  cases p
  case mem => exact absurd (List.mem_singleton_self _) hp
  all_goals simp [Part.kept]

/-- The returned count is the image's length cut at 2048 (R232). -/
theorem loadRomCount_eq_ite (bytes : List Byte) :
    loadRomCount bytes = if bytes.length ≤ 2048 then bytes.length else 2048 :=
  Nat.min_def

/-- Above the font, memory after `init` is zero (R40). -/
theorem read_init_of_font_lt (s : State) (font : Config.FontData) {a : Nat} (ha : 0x09F < a) :
    (s.init font).mem.read a = 0 := by
  rw [State.init_mem, read_fontMemory, fontByte_out font.val (.inr ha)]

/-- The first fetch after `init` is at 0x200, in range under both values of ADDR_OOB, and reads two zero bytes. -/
theorem fetch_init (s : State) (font : Config.FontData) : fetch (s.init font) = .ok 0x0000 := by
  have hpc : (s.init font).pc.toNat = 0x200 := rfl
  have hin : firstOutOfRange (s.init font).params.addrOob [0x200, 0x200 + 1] = none :=
    firstOutOfRange_eq_none.mpr (.inr (by decide))
  have hhi : (s.init font).mem.read (wrapAddr 0x200) = 0 := read_init_of_font_lt s font (by decide)
  have hlo : (s.init font).mem.read (wrapAddr (0x200 + 1)) = 0 := read_init_of_font_lt s font (by decide)
  rw [fetch_eq, hpc, hin, hhi, hlo]
  rfl

end Sys2Proof.Machine

open Sys2Proof Sys2Proof.Machine

/-- Settles O13: `load_rom` is one `setMem`, whose bytes are `read_loadRom` and whose frame is `frame_setMem`; an empty
image leaves the state of `init`, whose first fetch is `fetch_init`. -/
theorem loadRomCopiesTheImage : Obligations.LoadRomCopiesTheImage := by
  intro s bytes hwf
  obtain ⟨hcopied, hkept⟩ := read_loadRom hwf bytes
  refine ⟨loadRomCount_eq_ite bytes, hcopied, hkept, frame_setMem s _, fun font => ⟨rfl, ?firstFetch⟩⟩
  case firstFetch => rw [State.loadRom_nil, fetch_init]

end

section
/-! SUPPORT. Proofs of the statements of encoding (30_encoding.md): the decoder and the encoder undo each other, and the
decoder follows the opcode table. -/

namespace Sys2Proof

/-! ### From an instruction to its word and back -/

/-- The decoder undoes the encoder, constructor by constructor (R71, R76, R87). -/
theorem decode_encodeBytes (i : Instr) : Laws.RoundTrip.Statement i := by
  cases i
  case op00E0 n2 => exact Laws.RoundTrip.op00E0 n2
  case op00EE n2 => exact Laws.RoundTrip.op00EE n2
  case op1NNN nnn => exact Laws.RoundTrip.op1NNN nnn
  case op2NNN nnn => exact Laws.RoundTrip.op2NNN nnn
  case op3XNN x nn => exact Laws.RoundTrip.op3XNN x nn
  case op4XNN x nn => exact Laws.RoundTrip.op4XNN x nn
  case op5XY0 x y n4 => exact Laws.RoundTrip.op5XY0 x y n4
  case op6XNN x nn => exact Laws.RoundTrip.op6XNN x nn
  case op7XNN x nn => exact Laws.RoundTrip.op7XNN x nn
  case op8XY0 x y => exact Laws.RoundTrip.op8XY0 x y
  case op8XY1 x y => exact Laws.RoundTrip.op8XY1 x y
  case op8XY2 x y => exact Laws.RoundTrip.op8XY2 x y
  case op8XY3 x y => exact Laws.RoundTrip.op8XY3 x y
  case op8XY4 x y => exact Laws.RoundTrip.op8XY4 x y
  case op8XY5 x y => exact Laws.RoundTrip.op8XY5 x y
  case op8XY6 x y => exact Laws.RoundTrip.op8XY6 x y
  case op8XY7 x y => exact Laws.RoundTrip.op8XY7 x y
  case op8XYE x y => exact Laws.RoundTrip.op8XYE x y
  case op9XY0 x y n4 => exact Laws.RoundTrip.op9XY0 x y n4
  case opANNN nnn => exact Laws.RoundTrip.opANNN nnn
  case opBNNN nnn => exact Laws.RoundTrip.opBNNN nnn
  case opCXNN x nn => exact Laws.RoundTrip.opCXNN x nn
  case opDXYN x y n => exact Laws.RoundTrip.opDXYN x y n
  case opEX9E x => exact Laws.RoundTrip.opEX9E x
  case opEXA1 x => exact Laws.RoundTrip.opEXA1 x
  case opFX07 x => exact Laws.RoundTrip.opFX07 x
  case opFX0A x => exact Laws.RoundTrip.opFX0A x
  case opFX15 x => exact Laws.RoundTrip.opFX15 x
  case opFX18 x => exact Laws.RoundTrip.opFX18 x
  case opFX1E x => exact Laws.RoundTrip.opFX1E x
  case opFX29 x => exact Laws.RoundTrip.opFX29 x
  case opFX33 x => exact Laws.RoundTrip.opFX33 x
  case opFX55 x => exact Laws.RoundTrip.opFX55 x
  case opFX65 x => exact Laws.RoundTrip.opFX65 x
  case unsupported w => exact Laws.RoundTrip.unsupported w

/-- The word of a well-formed instruction decodes to it. -/
theorem decodeWord_encode {i : Instr} (hi : i.wellFormed = true) : decodeWord (encode i) = i := by
  have hbytes := decode_encodeBytes i hi
  rw [encodeBytes, decode_bytesOfWord] at hbytes
  injection hbytes with hpair
  exact congrArg Prod.fst hpair

/-! ### From a word to its instruction and back -/

/-- `i` is a well-formed instruction that the encoder writes as `w`. -/
def Instr.WrittenAs (i : Instr) (w : Word) : Prop := i.wellFormed = true ∧ encode i = w

theorem n1_toNat (w : Word) : (n1 w).toNat = w.toNat / 4096 := by
  rw [n1, BitVec.extractLsb'_toNat, Nat.shiftRight_eq_div_pow]
  omega

theorem n4_toNat (w : Word) : (n4 w).toNat = w.toNat % 16 := by
  rw [n4, BitVec.extractLsb'_toNat, Nat.shiftRight_zero]

theorem nn_toNat (w : Word) : (nn w).toNat = w.toNat % 256 := by
  rw [nn, BitVec.extractLsb'_toNat, Nat.shiftRight_zero]

/-- A word in layout `XNN` or `XK` is written back from its family, register and low byte. -/
theorem wordXNN_eq {w : Word} {f : Nibble} {low : Byte} (hf : (n1 w).toNat = f.toNat)
    (hlow : (nn w).toNat = low.toNat) : wordXNN f (regOf (n2 w)) low = w := by
  rw [← BitVec.eq_of_toNat_eq hf, ← BitVec.eq_of_toNat_eq hlow, wordXNN_fields]

/-- A word in layout `XYN` is written back from its family, registers and last nibble. -/
theorem wordXYN_eq {w : Word} {f last : Nibble} (hf : (n1 w).toNat = f.toNat) (hlast : (n4 w).toNat = last.toNat) :
    wordXYN f (regOf (n2 w)) (regOf (n3 w)) last = w := by
  rw [← BitVec.eq_of_toNat_eq hf, ← BitVec.eq_of_toNat_eq hlast, wordXYN, nibbleOf_regOf, nibbleOf_regOf,
    wordOfNibbles_fields]

/-- A word in layout `A` is written back from its family and address. -/
theorem wordNNN_eq {w : Word} {f : Nibble} (hf : (n1 w).toNat = f.toNat) : wordNNN f (nnn w) = w := by
  rw [← BitVec.eq_of_toNat_eq hf, wordNNN_fields]

/-- In family 0x0 the low byte takes the place of the last two nibbles. -/
theorem wordOfNibbles_eq {w : Word} {f c d : Nibble} (hf : (n1 w).toNat = f.toNat)
    (hlow : (nn w).toNat = (c ++ d).toNat) : wordOfNibbles f (n2 w) c d = w := by
  have hsplit : wordOfNibbles f (n2 w) c d = wordXNN f (regOf (n2 w)) (c ++ d) := by
    apply BitVec.eq_of_toNat_eq
    simp only [wordOfNibbles, wordXNN, nibbleOf_regOf, BitVec.toNat_append, Nat.shiftLeft_or_distrib,
      ← Nat.shiftLeft_add, Nat.or_assoc]
  rw [hsplit, wordXNN_eq hf hlow]

theorem writtenAs_unsupported {w : Word} (hw : unsupportedWord w = true) : (Instr.unsupported w).WrittenAs w :=
  ⟨hw, rfl⟩

theorem decodeFamily0_writtenAs {w : Word} (hf : (n1 w).toNat = 0x0) : (decodeFamily0 w).WrittenAs w := by
  unfold decodeFamily0
  split
  case h_1 hlow => exact ⟨rfl, wordOfNibbles_eq hf hlow⟩
  case h_2 hlow => exact ⟨rfl, wordOfNibbles_eq hf hlow⟩
  case h_3 =>
    refine writtenAs_unsupported ((unsupportedWord_iff w).mpr (.inl ?_))
    simp only [n1_toNat, nn_toNat, imp_false] at *
    omega

theorem decodeFamily8_writtenAs {w : Word} (hf : (n1 w).toNat = 0x8) : (decodeFamily8 w).WrittenAs w := by
  unfold decodeFamily8
  dsimp only
  split
  case h_10 =>
    refine writtenAs_unsupported ((unsupportedWord_iff w).mpr (.inr (.inl ?_)))
    simp only [n1_toNat, n4_toNat, imp_false, List.mem_cons, List.not_mem_nil] at *
    omega
  all_goals exact ⟨rfl, wordXYN_eq hf ‹_›⟩

theorem decodeFamilyE_writtenAs {w : Word} (hf : (n1 w).toNat = 0xE) : (decodeFamilyE w).WrittenAs w := by
  unfold decodeFamilyE
  dsimp only
  split
  case h_3 =>
    refine writtenAs_unsupported ((unsupportedWord_iff w).mpr (.inr (.inr (.inl ?_))))
    simp only [n1_toNat, nn_toNat, imp_false] at *
    omega
  all_goals exact ⟨rfl, wordXNN_eq hf ‹_›⟩

theorem decodeFamilyF_writtenAs {w : Word} (hf : (n1 w).toNat = 0xF) : (decodeFamilyF w).WrittenAs w := by
  unfold decodeFamilyF
  dsimp only
  split
  case h_10 =>
    refine writtenAs_unsupported ((unsupportedWord_iff w).mpr (.inr (.inr (.inr ?_))))
    simp only [n1_toNat, nn_toNat, imp_false, List.mem_cons, List.not_mem_nil, not_or,
      not_false_eq_true, and_true] at *
    omega
  all_goals exact ⟨rfl, wordXNN_eq hf ‹_›⟩

/-- The decoder gives every word a well-formed instruction that the encoder writes as that word, family by family (R74
to R76). -/
theorem decodeWord_writtenAs (w : Word) : (decodeWord w).WrittenAs w := by
  unfold decodeWord
  dsimp only
  split
  case h_1 hf => exact decodeFamily0_writtenAs hf
  case h_2 hf => exact ⟨rfl, wordNNN_eq hf⟩
  case h_3 hf => exact ⟨rfl, wordNNN_eq hf⟩
  case h_4 hf => exact ⟨rfl, wordXNN_eq hf rfl⟩
  case h_5 hf => exact ⟨rfl, wordXNN_eq hf rfl⟩
  case h_6 hf => exact ⟨rfl, wordXYN_eq hf rfl⟩
  case h_7 hf => exact ⟨rfl, wordXNN_eq hf rfl⟩
  case h_8 hf => exact ⟨rfl, wordXNN_eq hf rfl⟩
  case h_9 hf => exact decodeFamily8_writtenAs hf
  case h_10 hf => exact ⟨rfl, wordXYN_eq hf rfl⟩
  case h_11 hf => exact ⟨rfl, wordNNN_eq hf⟩
  case h_12 hf => exact ⟨rfl, wordNNN_eq hf⟩
  case h_13 hf => exact ⟨rfl, wordXNN_eq hf rfl⟩
  case h_14 hf => exact ⟨rfl, wordXYN_eq hf rfl⟩
  case h_15 hf => exact decodeFamilyE_writtenAs hf
  case h_16 =>
    have hlt : (n1 w).toNat < 16 := (n1 w).isLt
    simp only [imp_false] at *
    have hf : (n1 w).toNat = 0xF := by omega
    exact decodeFamilyF_writtenAs hf

/-! ### The rows of the opcode table -/

/-- A row keeps the family, and below it exactly the field that its family is keyed on (R75); its pattern decodes to
its own instruction. -/
theorem row_keeps_keys : ∀ r ∈ opcodeRows, n1 r.mask = 0xF ∧
    (n1 r.pattern ∈ [0x0, 0xE, 0xF] → nn r.mask = 0xFF) ∧ (n1 r.pattern = 0x8 → n4 r.mask = 0xF) ∧
    (decodeWord r.pattern).mnemonic = r.mnemonic := by
  decide

/-- The mnemonic of a decoded word depends only on its family and on the field that the family is keyed on (R75). -/
theorem mnemonic_decodeWord_congr {w p : Word} (hfamily : n1 w = n1 p)
    (hlow : n1 p ∈ [0x0, 0xE, 0xF] → nn w = nn p) (hlast : n1 p = 0x8 → n4 w = n4 p) :
    (decodeWord w).mnemonic = (decodeWord p).mnemonic := by
  unfold decodeWord
  dsimp only
  rw [hfamily]
  split
  case h_1 hf =>
    unfold decodeFamily0
    rw [hlow (by simp [BitVec.eq_of_toNat_eq (y := 0x0#4) hf])]
    split <;> rfl
  case h_9 hf =>
    unfold decodeFamily8
    dsimp only
    rw [hlast (BitVec.eq_of_toNat_eq (y := 0x8#4) hf)]
    split <;> rfl
  case h_15 hf =>
    unfold decodeFamilyE
    dsimp only
    rw [hlow (by simp [BitVec.eq_of_toNat_eq (y := 0xE#4) hf])]
    split <;> rfl
  case h_16 =>
    have hlt : (n1 p).toNat < 16 := (n1 p).isLt
    simp only [imp_false] at *
    have hfNat : (n1 p).toNat = 0xF := by omega
    have hf : n1 p = 0xF := BitVec.eq_of_toNat_eq hfNat
    unfold decodeFamilyF
    dsimp only
    rw [hlow (by simp [hf])]
    split <;> rfl
  all_goals rfl

/-- A word that has a row's fixed bits decodes to that row's instruction. -/
theorem mnemonic_of_fits {r : OpcodeRow} (hr : r ∈ opcodeRows) {w : Word} (h : r.fits w = true) :
    (decodeWord w).mnemonic = r.mnemonic := by
  obtain ⟨hfamily, hlow, hlast, hpattern⟩ := row_keeps_keys r hr
  have hbits : w &&& r.mask = r.pattern := eq_of_beq h
  rw [← hpattern]
  refine mnemonic_decodeWord_congr ?_ (fun hkeyed => ?_) fun hkeyed => ?_
  · rw [← hbits, n1, n1, BitVec.extractLsb'_and, ← n1, ← n1, hfamily]
    exact (BitVec.and_allOnes (x := n1 w)).symm
  · rw [← hbits, nn, nn, BitVec.extractLsb'_and, ← nn, ← nn, hlow hkeyed]
    exact (BitVec.and_allOnes (x := nn w)).symm
  · rw [← hbits, n4, n4, BitVec.extractLsb'_and, ← n4, ← n4, hlast hkeyed]
    exact (BitVec.and_allOnes (x := n4 w)).symm

/-! ### The three masks of the table, by the fields that they keep -/

theorem and_F000 (w : Word) : w &&& 0xF000 = wordNNN (n1 w) 0 := by
  have hmask : (0xF000 : Word) = wordNNN 0xF 0 := by decide
  rw [hmask]
  nth_rw 1 [← wordNNN_fields w]
  rw [wordNNN, wordNNN, wordNNN, BitVec.and_append]
  exact congrArg₂ _ (BitVec.and_allOnes (x := n1 w)) (BitVec.and_zero (x := nnn w))

theorem and_F0FF (w : Word) : w &&& 0xF0FF = wordXNN (n1 w) 0 (nn w) := by
  have hmask : (0xF0FF : Word) = wordXNN 0xF 0 0xFF := by decide
  rw [hmask]
  nth_rw 1 [← wordXNN_fields w]
  rw [wordXNN, wordXNN, wordXNN, BitVec.and_append, BitVec.and_append]
  exact congrArg₂ _ (congrArg₂ _ (BitVec.and_allOnes (x := n1 w)) (BitVec.and_zero (x := n2 w)))
    (BitVec.and_allOnes (x := nn w))

theorem and_F00F (w : Word) : w &&& 0xF00F = wordOfNibbles (n1 w) 0 0 (n4 w) := by
  have hmask : (0xF00F : Word) = wordOfNibbles 0xF 0 0 0xF := by decide
  rw [hmask]
  nth_rw 1 [← wordOfNibbles_fields w]
  rw [wordOfNibbles, wordOfNibbles, wordOfNibbles, BitVec.and_append, BitVec.and_append, BitVec.and_append]
  exact congrArg₂ _ (congrArg₂ _ (congrArg₂ _ (BitVec.and_allOnes (x := n1 w)) (BitVec.and_zero (x := n2 w)))
    (BitVec.and_zero (x := n3 w))) (BitVec.and_allOnes (x := n4 w))

/-- Every instruction but `unsupported` has a row of its mnemonic, and its word has the row's fixed bits. -/
theorem exists_fitting_row (i : Instr) : (∃ w, i = .unsupported w) ∨
    ∃ r, opcodeRows.find? (·.mnemonic == i.mnemonic) = some r ∧ r.fits (encode i) = true := by
  cases i
  case unsupported w => exact .inl ⟨w, rfl⟩
  all_goals
    refine .inr ⟨_, rfl, ?_⟩
    simp only [OpcodeRow.fits, encode, and_F000, and_F0FF, and_F00F, n1_wordNNN, n1_wordXNN, nn_wordXNN, n1_wordXYN,
      n4_wordXYN, n1_wordOfNibbles, nn_wordOfNibbles]
    decide

theorem nodup_mnemonics : (opcodeRows.map (·.mnemonic)).Nodup := by decide

theorem mnemonic_ne_unsupported : ∀ r ∈ opcodeRows, r.mnemonic ≠ "UNSUPPORTED" := by decide

theorem fits_of_mnemonic {r : OpcodeRow} (hr : r ∈ opcodeRows) {i : Instr} (h : i.mnemonic = r.mnemonic) :
    r.fits (encode i) = true := by
  rcases exists_fitting_row i with ⟨w, rfl⟩ | ⟨r', hfind, hfits⟩
  · exact absurd h.symm (mnemonic_ne_unsupported r hr)
  · have hr' : r' ∈ opcodeRows := List.mem_of_find?_eq_some hfind
    have hname : r'.mnemonic = i.mnemonic :=
      eq_of_beq (List.find?_some (p := fun q : OpcodeRow => q.mnemonic == i.mnemonic) hfind)
    rwa [← List.inj_on_of_nodup_map nodup_mnemonics hr' hr (hname.trans h)]

theorem fits_iff_mnemonic {r : OpcodeRow} (hr : r ∈ opcodeRows) (w : Word) :
    r.fits w = true ↔ (decodeWord w).mnemonic = r.mnemonic := by
  refine ⟨mnemonic_of_fits hr, fun h => ?_⟩
  have hfits := fits_of_mnemonic hr h
  rwa [(decodeWord_writtenAs w).2] at hfits

theorem no_row_fits_iff (w : Word) : (∀ r ∈ opcodeRows, r.fits w = false) ↔ decodeWord w = .unsupported w := by
  obtain ⟨-, hencode⟩ := decodeWord_writtenAs w
  constructor
  · intro hnone
    rcases exists_fitting_row (decodeWord w) with ⟨w', hw'⟩ | ⟨r, hfind, hfits⟩
    · rw [hw', ← hencode, hw']
      rfl
    · rw [hencode, hnone r (List.mem_of_find?_eq_some hfind)] at hfits
      cases hfits
  · intro hw r hr
    refine Bool.eq_false_iff.mpr fun hfits => ?_
    have hname := mnemonic_of_fits hr hfits
    rw [hw] at hname
    exact mnemonic_ne_unsupported r hr hname.symm

end Sys2Proof

open Sys2Proof

/-- Settles O1: the round trip of each constructor, the unsupported words included. -/
theorem decodeOfEncodeIsTheInstruction : Obligations.DecodeOfEncodeIsTheInstruction :=
  decode_encodeBytes

/-- Settles O2: each branch of the decoder reads the fields from which its layout writes the word back. -/
theorem encodeOfDecodeIsTheWord : Obligations.EncodeOfDecodeIsTheWord :=
  decodeWord_writtenAs

/-- Settles O3: a row's fixed bits are the keys of the dispatch, and each instruction's word has those of its row. -/
theorem decoderSelectsTheFittingTableRow : Obligations.DecoderSelectsTheFittingTableRow :=
  fun w => ⟨fun _ hr => fits_iff_mnemonic hr w, no_row_fits_iff w⟩

/-- Settles O4: the eleven words, evaluated. -/
theorem sampleWordsDecode : Obligations.SampleWordsDecode := by
  unfold Obligations.SampleWordsDecode
  decide

end

section
/-! SUPPORT. What an instruction and a step leave alone, said once for all instructions: the frames that the other
proofs of this text read their frames off. -/

namespace Sys2Proof.Machine

/-! ### Frames of the updates -/

/-- A frame may name more than is written. -/
theorem Frame.mono {regs regs' : List Reg} {written written' : List Part} {s t : State}
    (h : Frame regs written s t) (hregs : regs ⊆ regs') (hwritten : written ⊆ written') : Frame regs' written' s t :=
  ⟨fun r hr => h.1 r fun hmem => hr (hregs hmem), fun p hp => h.2 p fun hmem => hp (hwritten hmem)⟩

theorem frame_refl (s : State) : Frame [] [] s s :=
  ⟨fun _ _ => rfl, fun p _ => by cases p <;> simp [Part.kept]⟩

theorem frame_setDT (s : State) (b : Byte) : Frame [] [.DT] s (s.setDT b) := by
  refine ⟨fun r _ => State.reg_setDT s b r, fun p hp => ?_⟩
  cases p
  case DT => exact absurd (List.mem_singleton_self _) hp
  all_goals simp [Part.kept]

theorem frame_setST (s : State) (b : Byte) : Frame [] [.ST] s (s.setST b) := by
  refine ⟨fun r _ => State.reg_setST s b r, fun p hp => ?_⟩
  cases p
  case ST => exact absurd (List.mem_singleton_self _) hp
  all_goals simp [Part.kept]

theorem frame_push (s : State) (a : Word) : Frame [] [.sp, .stack] s (s.push a) := by
  refine ⟨fun r _ => State.reg_push s a r, fun p hp => ?_⟩
  cases p
  case sp => exact absurd (by simp) hp
  case stack => exact absurd (by simp) hp
  all_goals simp [Part.kept]

theorem frame_popped (s : State) : Frame [] [.sp] s s.popped := by
  refine ⟨fun r _ => State.reg_popped s r, fun p hp => ?_⟩
  cases p
  case sp => exact absurd (List.mem_singleton_self _) hp
  all_goals simp [Part.kept]

theorem frame_countDraw (s : State) : Frame [] [.draws] s s.countDraw := by
  refine ⟨fun r _ => State.reg_countDraw s r, fun p hp => ?_⟩
  cases p
  case draws => exact absurd (List.mem_singleton_self _) hp
  all_goals simp [Part.kept]

theorem frame_setRegs (s : State) (l : List (Reg × Byte)) : Frame (l.map (·.1)) [] s (s.setRegs l) := by
  refine ⟨fun r hr => State.reg_setRegs_of_not_mem s l r fun p hp e => hr (e ▸ List.mem_map_of_mem hp), fun p _ => ?_⟩
  cases p
  all_goals simp [Part.kept]

theorem frame_registerFills (s : State) (x : Reg) : Frame (regsUpTo x) [] s (s.setRegs (registerFills s x)) := by
  have hregs : (registerFills s x).map (·.1) = regsUpTo x := by
    rw [registerFills, List.map_map]
    exact List.map_id _
  rw [← hregs]
  exact frame_setRegs s _

/-! ### The frame of an instruction -/

/-- The parts of the state that an instruction may write, the general registers apart. -/
def writtenParts (i : Instr) : List Part :=
  match i with
  | .op00E0 _ | .opDXYN _ _ _ => [.fb, .events]
  | .op00EE _ => [.pc, .sp]
  | .op2NNN _ => [.pc, .sp, .stack]
  | .op1NNN _ | .opBNNN _ | .op3XNN _ _ | .op4XNN _ _ | .op5XY0 _ _ _ | .op9XY0 _ _ _ => [.pc]
  | .opANNN _ | .opFX1E _ | .opFX29 _ => [.I]
  | .opCXNN _ _ => [.draws]
  | .opEX9E _ | .opEXA1 _ | .opFX0A _ => [.pc, .KM]
  | .opFX15 _ => [.DT]
  | .opFX18 _ => [.ST]
  | .opFX33 _ | .opFX55 _ => [.mem]
  | _ => []

/-- No instruction writes a register but its destinations, or a part but its own. -/
theorem frame_post (i : Instr) (s : State) : Frame (destRegs i) (writtenParts i) s (post i s) := by
  cases i
  case op00E0 => exact (frame_setFb s _).trans (frame_emit _ _)
  case op00EE => exact ((frame_popped s).trans (frame_setPc _ _)).mono (by simp [destRegs]) (by simp [writtenParts])
  case op2NNN => exact ((frame_push s _).trans (frame_setPc _ _)).mono (by simp [destRegs]) (by simp [writtenParts])
  case op1NNN | opBNNN | op3XNN | op4XNN | op5XY0 | op9XY0 => exact frame_setPc s _
  case op6XNN | op7XNN | op8XY0 | op8XY1 | op8XY2 | op8XY3 | opFX07 => exact frame_setReg s _ _
  case op8XY4 | op8XY5 | op8XY6 | op8XY7 | op8XYE => exact frame_setRegFlag s _ _ _
  case opANNN | opFX29 => exact frame_setI s _
  case opFX1E => exact (frame_setI s _).trans (frame_setReg _ _ _)
  case opCXNN => exact (frame_countDraw s).trans (frame_setReg _ _ _)
  case opDXYN => exact ((frame_setFb s _).trans (frame_setReg _ _ _)).trans (frame_emit _ _)
  case opEX9E | opEXA1 => exact (frame_setPc s _).trans (frame_setKM _ _)
  case opFX0A x =>
    rw [post]
    split
    · exact (frame_setPc s _).mono (by simp) (by simp [writtenParts])
    · exact ((frame_setReg s x _).trans (frame_setKM _ _)).mono (by simp [destRegs]) (by simp [writtenParts])
  case opFX15 => exact frame_setDT s _
  case opFX18 => exact frame_setST s _
  case opFX33 | opFX55 => exact frame_setMem s _
  case opFX65 x => exact frame_registerFills s x
  case unsupported => exact frame_refl s

/-- An instruction without data accesses goes on to `post` whatever ADDR_OOB is. -/
theorem exec_of_no_access {i : Instr} {s : State} (h : dataAccesses i s = []) : exec i s = .next (post i s) := by
  rw [exec_eq, h, firstOutOfRange_nil]

/-! ### The frame of a step -/

theorem frame_beginCycle (s : State) : Frame [] [.pc, .events] s (beginCycle s) := by
  refine ⟨fun r _ => beginCycle_reg s r, fun p hp => ?_⟩
  cases p
  case pc => exact absurd (by simp) hp
  case events => exact absurd (by simp) hp
  all_goals simp [Part.kept]

/-- The `params` part includes the step's random byte, which the end of the cycle clears. -/
theorem frame_endCycle (s : State) : Frame [] [.DT, .ST, .events, .params] s (endCycle s) := by
  refine ⟨fun r _ => endCycle_reg s r, fun p hp => ?_⟩
  cases p
  case DT => exact absurd (by simp) hp
  case ST => exact absurd (by simp) hp
  case events => exact absurd (by simp) hp
  case params => exact absurd (by simp) hp
  all_goals simp [Part.kept]

/-- The parts that every cycle may write, whatever its instruction. -/
def cycleParts : List Part := [.pc, .DT, .ST, .events, .params]

/-- A step writes what its instruction may write, and what every cycle writes. -/
theorem frame_step {s t : State} {w : Word} (hfetch : fetch s = .ok w) (hstep : step s = .next t) :
    Frame (destRegs (decodeWord w)) (writtenParts (decodeWord w) ++ cycleParts) s t := by
  rw [step_next_post hfetch hstep]
  refine (((frame_beginCycle s).trans (frame_post (decodeWord w) _)).trans (frame_endCycle _)).mono (by simp) ?_
  simp only [cycleParts]
  grind

end Sys2Proof.Machine

end

section
/-! SUPPORT. Proofs of the rules of the whole machine: each part of the state and the instructions that may write it. -/

namespace Sys2Proof.Machine

/-! ### A part that changed was written by the instruction -/

/-- A part that no cycle writes by itself changes in a step only under an instruction that may write it. -/
theorem mem_writtenParts_of_not_kept {s t : State} {w : Word} (hfetch : fetch s = .ok w) (hstep : step s = .next t)
    {p : Part} (hp : p ∉ cycleParts) (hchanged : ¬ p.kept s t) : p ∈ writtenParts (decodeWord w) := by
  by_contra hmem
  exact hchanged ((frame_step hfetch hstep).2 p (by simp [hmem, hp]))

/-! ### Which instructions may write a part -/

theorem mnemonic_of_I_written {i : Instr} (h : .I ∈ writtenParts i) : i.mnemonic ∈ ["ANNN", "FX1E", "FX29"] := by
  cases i <;> simp [writtenParts, Instr.mnemonic] at h ⊢

theorem mnemonic_of_fb_written {i : Instr} (h : .fb ∈ writtenParts i) : i.mnemonic ∈ ["00E0", "DXYN"] := by
  cases i <;> simp [writtenParts, Instr.mnemonic] at h ⊢

theorem mnemonic_of_sp_written {i : Instr} (h : .sp ∈ writtenParts i) : i.mnemonic ∈ ["2NNN", "00EE"] := by
  cases i <;> simp [writtenParts, Instr.mnemonic] at h ⊢

theorem mnemonic_of_KM_written {i : Instr} (h : .KM ∈ writtenParts i) : i.mnemonic ∈ ["EX9E", "EXA1", "FX0A"] := by
  cases i <;> simp [writtenParts, Instr.mnemonic] at h ⊢

theorem mnemonic_of_DT_written {i : Instr} (h : .DT ∈ writtenParts i) : i.mnemonic = "FX15" := by
  cases i <;> simp [writtenParts, Instr.mnemonic] at h ⊢

theorem mnemonic_of_ST_written {i : Instr} (h : .ST ∈ writtenParts i) : i.mnemonic = "FX18" := by
  cases i <;> simp [writtenParts, Instr.mnemonic] at h ⊢

theorem call_of_stack_written {i : Instr} (h : .stack ∈ writtenParts i) : ∃ nnn, i = .op2NNN nnn := by
  cases i <;> simp [writtenParts] at h ⊢

theorem store_of_mem_written {i : Instr} (h : .mem ∈ writtenParts i) :
    (∃ x, i = .opFX33 x) ∨ ∃ x, i = .opFX55 x := by
  cases i <;> simp [writtenParts] at h ⊢

theorem not_KP_written (i : Instr) : .KP ∉ writtenParts i := by
  cases i <;> simp [writtenParts]

theorem not_params_written (i : Instr) : .params ∉ writtenParts i := by
  cases i <;> simp [writtenParts]

/-! ### What the writing instructions write -/

/-- Every write of `KM` by an instruction clears it whole (R191, R194). -/
theorem post_KM (i : Instr) (s : State) : (post i s).KM = s.KM ∨ (post i s).KM = 0 := by
  by_cases hwritten : .KM ∈ writtenParts i
  · cases i
    case opEX9E | opEXA1 =>
      simp only [post, State.setKM_KM]
      split
      · exact .inr rfl
      · exact .inl rfl
    case opFX0A =>
      rw [post]
      split
      · exact .inl rfl
      · exact .inr rfl
    all_goals simp [writtenParts] at hwritten
  · exact .inl ((frame_post i s).2 .KM hwritten)

/-- An instruction leaves `pc` at the next instruction, skips one, steps back to itself, or is one of the four that load
it. -/
theorem post_pc (i : Instr) (s : State) :
    (post i s).pc = s.pc ∨
    ((post i s).pc = s.pc + 2 ∧ i.mnemonic ∈ ["3XNN", "4XNN", "5XY0", "9XY0", "EX9E", "EXA1"]) ∨
    ((post i s).pc = s.pc - 2 ∧ i.mnemonic = "FX0A") ∨ i.mnemonic ∈ ["00EE", "1NNN", "2NNN", "BNNN"] := by
  by_cases hwritten : .pc ∈ writtenParts i
  · cases i
    case op00EE | op1NNN | op2NNN | opBNNN => exact .inr (.inr (.inr (by simp [Instr.mnemonic])))
    case op3XNN | op4XNN | op5XY0 | op9XY0 | opEX9E | opEXA1 =>
      simp only [post, State.setKM_pc, State.setPc_pc]
      split
      · exact .inr (.inl ⟨rfl, by simp [Instr.mnemonic]⟩)
      · exact .inl rfl
    case opFX0A =>
      rw [post]
      split
      · exact .inr (.inr (.inl ⟨rfl, rfl⟩))
      · exact .inl rfl
    all_goals simp [writtenParts] at hwritten
  · exact .inl ((frame_post i s).2 .pc hwritten)

/-- `FX33` changes no byte but those it stores to. -/
theorem read_digitStores_other {s : State} (hm : s.mem.wf) (v : Byte) {a : Nat}
    (h : ∀ k, k < 3 → a ≠ wrapAddr (s.I.toNat + k)) :
    (s.mem.writeAll (wrapStores (digitStores s.I.toNat v))).read a = s.mem.read a := by
  refine Memory.read_writeAll_of_not_mem hm (wrapStores_lt _) fun p hp e => ?_
  simp only [wrapStores, digitStores, List.map_cons, List.map_nil, List.mem_cons, List.not_mem_nil, or_false] at hp
  rcases hp with rfl | rfl | rfl
  · exact h 0 (by decide) e.symm
  · exact h 1 (by decide) e.symm
  · exact h 2 (by decide) e.symm

end Sys2Proof.Machine

open Sys2Proof Sys2Proof.Machine

/-- Settles O49: `I` is written by the three instructions only. -/
theorem onlyThreeInstructionsChangeI : Obligations.OnlyThreeInstructionsChangeI := by
  intro s t w hfetch hstep hI
  exact mnemonic_of_I_written (mem_writtenParts_of_not_kept hfetch hstep (by decide) hI)

/-- Settles O50: memory is written by `FX33` and `FX55` only, and each keeps every byte that it does not store. -/
theorem memoryChangesOnlyAtStores : Obligations.MemoryChangesOnlyAtStores := by
  intro s t w a hwf hfetch hstep hchanged
  have hwritten : .mem ∈ writtenParts (decodeWord w) :=
    mem_writtenParts_of_not_kept hfetch hstep (by decide) fun hkept => hchanged (hkept a)
  rw [step_next_post hfetch hstep, endCycle_mem] at hchanged
  rcases store_of_mem_written hwritten with ⟨x, hi⟩ | ⟨x, hi⟩
  · refine .inl ⟨x, hi, ?_⟩
    by_contra hnone
    push Not at hnone
    rw [hi] at hchanged
    exact hchanged (read_digitStores_other (s := beginCycle s) hwf _ hnone)
  · refine .inr ⟨x, hi, ?_⟩
    by_contra hnone
    push Not at hnone
    rw [hi] at hchanged
    exact hchanged ((read_registerStores (s := beginCycle s) hwf x).2 a fun k hk => hnone k.val hk)

/-- Settles O51: the framebuffer is written by `00E0` and `DXYN` only. -/
theorem onlyTwoInstructionsChangeAPixel : Obligations.OnlyTwoInstructionsChangeAPixel := by
  intro s t w x y hfetch hstep hpixel
  exact mnemonic_of_fb_written (mem_writtenParts_of_not_kept hfetch hstep (by decide) fun hkept => hpixel (hkept x y))

/-- Settles O52: `sp` is written by `2NNN` and `00EE` only, the stack by `2NNN` only, which sets the one slot that `sp`
names. -/
theorem onlyCallAndReturnTouchTheStack : Obligations.OnlyCallAndReturnTouchTheStack := by
  intro s t w hfetch hstep
  refine ⟨fun hsp => ?sp, fun k hk => ?stack⟩
  case sp => exact mnemonic_of_sp_written (mem_writtenParts_of_not_kept hfetch hstep (by decide) hsp)
  case stack =>
    obtain ⟨nnn, hi⟩ := call_of_stack_written (mem_writtenParts_of_not_kept hfetch hstep (p := .stack) (by decide)
      fun hkept => hk (by rw [hkept]))
    refine ⟨by rw [hi]; rfl, ?_⟩
    by_contra hne
    have hval : s.sp.val ≠ k.val := fun e => hne (Fin.ext e.symm)
    simp [step_next_post hfetch hstep, hi, post, hval] at hk

/-- Settles O53: no instruction writes `KP` or the parameters, and the three that write `KM` clear it. -/
theorem stepsOnlyClearTheKeyMask : Obligations.StepsOnlyClearTheKeyMask := by
  intro s t w hfetch hstep
  have ht := step_next_post hfetch hstep
  have hframe := frame_post (decodeWord w) (beginCycle s)
  refine ⟨?KP, ?params, fun hKM => ⟨?cleared, ?instr⟩⟩
  case KP => rw [ht, endCycle_KP]; exact hframe.2 .KP (not_KP_written _)
  case params => rw [ht, endCycle_params]; exact (hframe.2 .params (not_params_written _)).1
  case cleared =>
    rw [ht, endCycle_KM] at hKM ⊢
    exact (post_KM (decodeWord w) (beginCycle s)).resolve_left hKM
  case instr => exact mnemonic_of_KM_written (mem_writtenParts_of_not_kept hfetch hstep (by decide) hKM)

/-- Settles O54: a timer that execute keeps is the old one less the tick. -/
theorem onlyTwoInstructionsLoadATimer : Obligations.OnlyTwoInstructionsLoadATimer := by
  intro s t w hfetch hstep
  have hframe := frame_post (decodeWord w) (beginCycle s)
  rw [step_next_post hfetch hstep, endCycle_DT_toNat, endCycle_ST_toNat]
  refine ⟨fun hDT => mnemonic_of_DT_written ?_, fun hST => mnemonic_of_ST_written ?_⟩
  · by_contra hkept
    exact hDT (congrArg (·.toNat - 1) (hframe.2 .DT hkept))
  · by_contra hkept
    exact hST (congrArg (·.toNat - 1) (hframe.2 .ST hkept))

/-- Settles O55: the registers of the step's frame are the destinations. -/
theorem stepsWriteOnlyDestinationRegisters : Obligations.StepsWriteOnlyDestinationRegisters := by
  intro s t w r hfetch hstep hr
  by_contra hdest
  exact hr ((frame_step hfetch hstep).1 r hdest)

/-- Settles O56: the cases of `post_pc`, from the `pc` that the cycle has advanced by 2. -/
theorem controlTransferIsListed : Obligations.ControlTransferIsListed := by
  intro s t w hfetch hstep
  rw [step_next_post hfetch hstep, endCycle_pc]
  rcases post_pc (decodeWord w) (beginCycle s) with hpc | ⟨hpc, hname⟩ | ⟨hpc, hname⟩ | hname
  · exact .inl hpc
  · refine .inr (.inl ⟨?_, hname⟩)
    rw [hpc, beginCycle_pc, BitVec.add_assoc]
    rfl
  · refine .inr (.inr (.inl ⟨?_, hname⟩))
    rw [hpc, beginCycle_pc, BitVec.add_sub_cancel]
  · exact .inr (.inr (.inr hname))

end

section
/-! SUPPORT. Proofs of the cycle's statements (40_cycle.md): what the fetch reads, where a cycle faults and which events
it emits. -/

namespace Sys2Proof.Machine

/-! ### Accesses in range and out of range (R51, R211) -/

/-- Accesses in range are those of which none faults. -/
theorem inRange_iff (s : State) (as : List Nat) : InRange s as ↔ firstOutOfRange s.params.addrOob as = none :=
  firstOutOfRange_eq_none.symm

theorem firstOutOfRange_append (mode : AddrOob) (as bs : List Nat) :
    firstOutOfRange mode (as ++ bs) = (firstOutOfRange mode as).or (firstOutOfRange mode bs) := by
  cases mode
  case wrap => rfl
  case fault => exact List.find?_append

/-- Under FAULT the first address out of range is the one that is found. -/
theorem firstOutOfRange_of_firstOut {as : List Nat} {a : Nat} (h : FirstOut as a) :
    firstOutOfRange .fault as = some a := by
  obtain ⟨ha, before, after, rfl, hbefore⟩ := h
  refine List.find?_eq_some_iff_append.mpr ⟨decide_eq_true ha, before, after, rfl, fun b hb => ?_⟩
  have := hbefore b hb
  simp only [Config.memSize, Bool.not_eq_true', decide_eq_false_iff_not]
  omega

/-! ### The fetch -/

/-- A fetch in range reads the word at `pc`, its addresses wrapped (R53). -/
theorem fetch_of_inRange {s : State} (h : InRange s [s.pc.toNat, s.pc.toNat + 1]) : fetch s = .ok (wordAtPc s) := by
  rw [fetch_eq, (inRange_iff s _).mp h]
  rfl

theorem wordOfBytes_toNat (hi lo : Byte) : (wordOfBytes hi lo).toNat = 256 * hi.toNat + lo.toNat := by
  rw [wordOfBytes, BitVec.toNat_append, ← Nat.shiftLeft_add_eq_or_of_lt lo.isLt, Nat.shiftLeft_eq, Nat.mul_comm]

/-! ### The step -/

/-- A step answers the cycle's end, or the fault of the first of the cycle's accesses that is out of range. -/
theorem step_eq_of_cycleAccesses (s : State) :
    step s = match firstOutOfRange s.params.addrOob (cycleAccesses s) with
      | none => .next (endCycle (post (decodeWord (wordAtPc s)) (beginCycle s)))
      | some a => .fault (.addressOutOfRange a s.pc) := by
  rw [step_eq, cycleAccesses, firstOutOfRange_append]
  cases firstOutOfRange s.params.addrOob [s.pc.toNat, s.pc.toNat + 1] with
  | some a => rfl
  | none =>
    rw [Option.none_or]
    show (match firstOutOfRange s.params.addrOob (dataAccesses (decodeWord (wordAtPc s)) s) with
      | some a => _ | none => _) = _
    cases firstOutOfRange s.params.addrOob (dataAccesses (decodeWord (wordAtPc s)) s) <;> rfl

theorem step_of_inRange {s : State} (h : InRange s (cycleAccesses s)) :
    step s = .next (endCycle (post (decodeWord (wordAtPc s)) (beginCycle s))) := by
  rw [step_eq_of_cycleAccesses, (inRange_iff s _).mp h]

theorem step_of_firstOut {s : State} {a : Nat} (hmode : s.params.addrOob = .fault) (h : FirstOut (cycleAccesses s) a) :
    step s = .fault (.addressOutOfRange a s.pc) := by
  rw [step_eq_of_cycleAccesses, hmode, firstOutOfRange_of_firstOut h]

/-! ### Events -/

theorem events_written_iff {i : Instr} : .events ∈ writtenParts i ↔ i.mnemonic ∈ ["00E0", "DXYN"] := by
  cases i <;> simp [writtenParts, Instr.mnemonic]

/-- Execute emits REDRAW under `00E0` and `DXYN`, and nothing else (R181, R182). -/
theorem post_events (i : Instr) (s : State) :
    (post i s).events = s.events ++ if i.mnemonic ∈ ["00E0", "DXYN"] then [.redraw] else [] := by
  by_cases hwritten : .events ∈ writtenParts i
  · cases i
    case op00E0 | opDXYN => rfl
    all_goals simp [writtenParts] at hwritten
  · rw [if_neg (mt events_written_iff.mpr hwritten), List.append_nil]
    exact (frame_post i s).2 .events hwritten

end Sys2Proof.Machine

open Sys2Proof Sys2Proof.Machine

/-- Settles O5: the fetch in range is of those two bytes, and `endCycle` is `endCycle_eq`. -/
theorem stepRunsTheDecodedInstruction : Obligations.StepRunsTheDecodedInstruction := by
  refine ⟨fun s i _ hrange hdecode => ?step, fun s => rfl, endCycle_eq⟩
  have hi : decodeWord (wordAtPc s) = i := by
    injection hdecode with hpair
    exact congrArg Prod.fst hpair
  have hstep := step_of_fetch (fetch_of_inRange hrange)
  rw [hi] at hstep
  exact hstep

/-- Settles O6: the fetch in range reads `wordAtPc`, whose value is that of its two bytes. -/
theorem fetchIsBigEndian : Obligations.FetchIsBigEndian :=
  fun _ hrange => ⟨_, fetch_of_inRange hrange, wordOfBytes_toNat _ _⟩

/-- Settles O7: a step is decided by the first of its accesses that is out of range. -/
theorem cycleIsTotal : Obligations.CycleIsTotal :=
  ⟨fun _ hrange => ⟨_, step_of_inRange hrange⟩, fun _ _ hmode hout => step_of_firstOut hmode hout⟩

/-- Settles O9: `beginCycle` empties the list, execute adds REDRAW, and `endCycle` adds BEEP and CYCLE. -/
theorem cycleEventsInOrder : Obligations.CycleEventsInOrder := by
  intro s t w hfetch hstep
  obtain ⟨w', u, hfetch', hexec, rfl⟩ := step_next hstep
  obtain rfl : w = w' := Except.ok.inj (hfetch.symm.trans hfetch')
  refine ⟨u, hexec, ?_⟩
  rw [endCycle_events_toNat, exec_next hexec, post_events, beginCycle_events, List.nil_append]

end

section
/-! SUPPORT. Proofs of the statements of reset and of the host's port (60_exceptions.md, 70_reset_and_hazards.md). -/

namespace Sys2Proof.Machine

/-! ### Reset -/

/-- The reset state over any memory that reads as the font and zeros is at reset, whatever the parameters and the count
of draws (R40). -/
theorem atReset_of_read {font : Vector Byte 80} {m : Memory} (hm : ∀ a, m.read a = fontByte font a) (params : Params)
    (draws : Nat) : AtReset font { State.reset with mem := m, params := params, draws := draws } := by
  refine ⟨?regs, rfl, rfl, rfl, ?stack, rfl, rfl, ?pixels, rfl, rfl, rfl, ?font, ?zeros⟩
  case regs => intro r; simp [State.reg, State.reset]
  case stack => intro k; simp [State.reset]
  case pixels => exact fun x y => Framebuffer.pixel_clear x y
  case font => exact fun k => (hm _).trans (fontByte_in font k)
  case zeros => exact fun a ha => (hm a).trans (fontByte_out font ha)

theorem read_reset (a : Nat) : State.reset.mem.read a = fontByte Config.defaultFont a := rfl

/-! ### Keys -/

/-- A bit of the mask after `key_up(k)`; an index `k` of 16 or more is no `j` (R223). -/
theorem keyUp_KM_getLsbD (s : State) (k : Nat) {j : Nat} (hj : j < 16) :
    (s.keyUp k).KM.getLsbD j = (!decide (j = k) && s.KM.getLsbD j) := by
  rw [State.keyUp_eq, State.setKM_KM]
  split
  case isTrue hk =>
    rw [BitVec.getLsbD_and, BitVec.getLsbD_not, keyBit_getLsbD hk hj, decide_eq_true hj, Bool.true_and, Bool.and_comm]
  case isFalse hk =>
    have hne : j ≠ k := by omega
    rw [decide_eq_false hne, Bool.not_false, Bool.true_and]

theorem frame_setKeyPolicy (s : State) (p : KeyPolicy) : Frame [] [.KP] s (s.setKeyPolicy p) := by
  refine ⟨fun r _ => rfl, fun q hq => ?_⟩
  cases q
  case KP => exact absurd (List.mem_singleton_self _) hq
  all_goals simp [Part.kept]

/-! ### The read ports -/

/-- Pixel number `y * 64 + x` is the pixel in column `x` of row `y` (R180). -/
theorem fbRead_eq_pixel (s : State) {x : Fin 64} {y : Fin 32} {p : Fin 2048} (hp : p.val = y.val * 64 + x.val) :
    s.fbRead p = s.fb.pixel x y := by
  have hx : p.val % 64 = x.val := by omega
  have hy : p.val / 64 = y.val := by omega
  simp only [State.fbRead, hx, hy]

theorem buzzer_eq_false_iff (s : State) : s.buzzer = false ↔ s.ST = 0 := by
  rw [State.buzzer, decide_eq_false_iff_not, Nat.not_lt, Nat.le_zero]
  exact BitVec.toNat_inj (y := 0)

end Sys2Proof.Machine

open Sys2Proof Sys2Proof.Machine

/-- Settles O11: with nothing listed, memory reads as the default font and zeros. -/
theorem resetState : Obligations.ResetState :=
  ⟨atReset_of_read read_reset _ _, rfl, rfl⟩

/-- Settles O12: `init` is the reset state over `fontMemory`, which is canonical and reads as FONT_DATA. -/
theorem initPutsEveryPieceAtReset : Obligations.InitPutsEveryPieceAtReset := by
  intro s font
  refine ⟨atReset_of_read (read_fontMemory font.val) _ _, ?firstByte, State.init_params s font, ?wf⟩
  case firstByte =>
    rw [State.init_mem, read_fontMemory]
    exact (fontByte_in font.val 0).trans font.property
  case wf => rw [State.init_mem]; exact fontMemory_wf font.val

/-- Settles O15: `key_up` is one `setKM`, whose bits are `keyUp_KM_getLsbD`; `set_key_policy` writes `KP`. -/
theorem keyUpClearsOneBit : Obligations.KeyUpClearsOneBit := by
  intro s k
  refine ⟨?frame, fun j hj => ?bit, fun p => ⟨rfl, frame_setKeyPolicy s p⟩⟩
  case frame => rw [State.keyUp_eq]; exact frame_setKM s _
  case bit => rw [keyUp_KM_getLsbD s k hj, Bool.and_eq_true, Bool.not_eq_true', decide_eq_false_iff_not]

/-- Settles O16: the ports are functions of the framebuffer and the timers. -/
theorem readPorts : Obligations.ReadPorts :=
  fun s => ⟨fun _ _ _ hp => fbRead_eq_pixel s hp, rfl, buzzer_eq_false_iff s⟩

end

section
/-! SUPPORT. Proofs of the statements of the invariant: every step keeps it, and under WRAP every session does. -/

namespace Sys2Proof.Machine

/-! ### What an instruction keeps -/

theorem zextAddr_lt (a : Addr12) : (zextAddr a).toNat < Config.memSize := by
  rw [zextAddr_toNat]
  exact a.isLt

/-- A glyph's address is at most 0x54B (R172). -/
theorem glyphAddr_toNat (v : Byte) : (glyphAddr v).toNat = 0x50 + v.toNat * 5 := by
  have := v.isLt
  rw [glyphAddr, BitVec.toNat_ofNat]
  exact Nat.mod_eq_of_lt (by simp only [Config.fontBase]; omega)

/-- An index sum is reduced modulo 4096, which a word holds (R171). -/
theorem ofNat_wrapAddr_toNat (a : Nat) : (BitVec.ofNat 16 (wrapAddr a)).toNat = wrapAddr a := by
  rw [BitVec.toNat_ofNat]
  exact Nat.mod_eq_of_lt (Nat.lt_trans (wrapAddr_lt a) (by decide))

/-- The three instructions that write `I` keep it below 4096 (R170 to R172). -/
theorem post_I_lt {s : State} (hI : s.I.toNat < Config.memSize) (i : Instr) :
    (post i s).I.toNat < Config.memSize := by
  by_cases hwritten : .I ∈ writtenParts i
  · cases i
    case opANNN nnn => exact zextAddr_lt nnn
    case opFX1E x =>
      show (BitVec.ofNat 16 (wrapAddr _)).toNat < _
      rw [ofNat_wrapAddr_toNat]
      exact wrapAddr_lt _
    case opFX29 x =>
      have := (s.reg x).isLt
      show (glyphAddr (s.reg x)).toNat < _
      rw [glyphAddr_toNat]
      simp only [Config.memSize]
      omega
    all_goals simp [writtenParts] at hwritten
  · have hkept : (post i s).I = s.I := (frame_post i s).2 .I hwritten
    rwa [hkept]

/-- Every store is inside the array, so memory stays canonical (R31, R50). -/
theorem post_mem_wf {s : State} (hm : s.mem.wf) (i : Instr) : (post i s).mem.wf := by
  cases i
  case opFX33 | opFX55 => exact Memory.wf_writeAll hm (wrapStores_lt _)
  case opFX65 x => rw [post, State.setRegs_mem]; exact hm
  case opFX0A => rw [post]; split <;> exact hm
  all_goals exact hm

/-- The events of a cycle are some of REDRAW, BEEP and CYCLE, in that order (R110). -/
theorem endCycle_events_sublist {u : State} (h : u.events.Sublist [.redraw]) :
    (endCycle u).events.Sublist [.redraw, .beep, .cycle] := by
  have hbeep : (if u.ST = 1 then [Event.beep] else []).Sublist [.beep] := by split <;> simp
  rw [endCycle_events]
  exact (h.append hbeep).append (List.Sublist.refl [Event.cycle])

/-! ### The step and the host's transactions -/

/-- A step to a next state keeps the invariant. -/
theorem step_keeps_inv {s t : State} (hinv : s.Inv) (hstep : step s = .next t) : t.Inv := by
  obtain ⟨hmem, hI, -⟩ := hinv
  obtain ⟨w, u, -, hexec, rfl⟩ := step_next hstep
  obtain rfl := exec_next hexec
  refine ⟨?mem, ?I, endCycle_events_sublist ?events⟩
  case mem => rw [endCycle_mem]; exact post_mem_wf (s := beginCycle s) hmem _
  case I => rw [endCycle_I]; exact post_I_lt (s := beginCycle s) hI _
  case events =>
    rw [post_events, beginCycle_events, List.nil_append]
    split <;> simp

theorem step_keeps_params {s t : State} (hstep : step s = .next t) : t.params = s.params := by
  obtain ⟨w, u, -, hexec, rfl⟩ := step_next hstep
  obtain rfl := exec_next hexec
  rw [endCycle_params]
  exact ((frame_post (decodeWord w) (beginCycle s)).2 .params (not_params_written _)).1

/-- `init` gives the invariant from any state (R230). -/
theorem init_inv (s : State) (font : Config.FontData) : (s.init font).Inv := by
  refine ⟨?mem, (by decide : (0 : Word).toNat < Config.memSize), List.nil_sublist _⟩
  rw [State.init_mem]
  exact fontMemory_wf font.val

/-- What a session can count on under WRAP: it goes on, keeps the invariant and keeps the parameters. -/
def GoesOnFrom (s : State) (o : Host.Outcome State Fault Refusal) : Prop :=
  ∃ t, o = .next t ∧ t.Inv ∧ t.params = s.params

theorem step_goesOn {s : State} (hinv : s.Inv) (hwrap : s.params.addrOob = .wrap) : GoesOnFrom s (step s) := by
  have hstep := step_of_inRange (s := s) (.inl hwrap)
  exact ⟨_, hstep, step_keeps_inv hinv hstep, step_keeps_params hstep⟩

/-- Under WRAP every transaction of the host goes through and keeps the invariant and the parameters (R220). -/
theorem transact_goesOn {s : State} (hinv : s.Inv) (hwrap : s.params.addrOob = .wrap) (tr : Transaction) :
    GoesOnFrom s (transact tr s) := by
  obtain ⟨hmem, hI, hevents⟩ := hinv
  cases tr
  case init font => exact ⟨_, rfl, init_inv s font, State.init_params s font⟩
  case loadRom bytes => exact ⟨_, rfl, ⟨loadRom_wf hmem bytes, hI, hevents⟩, rfl⟩
  case step r => exact step_goesOn (s := { s with rnd := some r }) ⟨hmem, hI, hevents⟩ hwrap
  case keyDown k => exact ⟨_, rfl, by rw [State.keyDown_eq]; exact ⟨⟨hmem, hI, hevents⟩, rfl⟩⟩
  case keyUp k => exact ⟨_, rfl, by rw [State.keyUp_eq]; exact ⟨⟨hmem, hI, hevents⟩, rfl⟩⟩
  case setKeyPolicy p => exact ⟨_, rfl, ⟨hmem, hI, hevents⟩, rfl⟩

theorem runSession_cons_of_next {tr : Transaction} {s s' : State} (h : transact tr s = .next s')
    (trs : List Transaction) : runSession (tr :: trs) s = runSession trs s' := by
  simp only [runSession, h]

theorem runSession_goesOn (trs : List Transaction) {s : State} (hinv : s.Inv) (hwrap : s.params.addrOob = .wrap) :
    GoesOnFrom s (runSession trs s) := by
  induction trs generalizing s with
  | nil => exact ⟨s, rfl, hinv, rfl⟩
  | cons tr trs ih =>
    obtain ⟨s', hnext, hinv', hparams'⟩ := transact_goesOn hinv hwrap tr
    obtain ⟨t, hrun, ht, hparams⟩ := ih hinv' (by rw [hparams', hwrap])
    exact ⟨t, (runSession_cons_of_next hnext trs).trans hrun, ht, hparams.trans hparams'⟩

/-- A session is legal only if its first transaction is `init` (R233). -/
theorem exists_init_of_legal {trs : List Transaction} (h : Session.legal trs = true) :
    ∃ font rest, trs = .init font :: rest := by
  cases trs with
  | nil => cases h
  | cons tr rest =>
    cases tr
    case init font => exact ⟨font, rest, rfl⟩
    all_goals cases h

end Sys2Proof.Machine

open Sys2Proof Sys2Proof.Machine

/-- Settles O17: the stores stay in the array, the writes of `I` below 4096, and the events in order. -/
theorem everyStepKeepsTheInvariant : Obligations.EveryStepKeepsTheInvariant :=
  fun _ _ => step_keeps_inv

/-- Settles O18: nothing is listed, `I` is 0 and no event was emitted. -/
theorem resetHasTheInvariant : Obligations.ResetHasTheInvariant :=
  ⟨Memory.wf_nil, by decide, List.nil_sublist _⟩

/-- Settles O19, by induction on the session. -/
theorem sessionsGoThroughUnderWrap : Obligations.SessionsGoThroughUnderWrap :=
  fun trs _ hinv hwrap => runSession_goesOn trs hinv hwrap

/-- Settles O20: the `init` that a legal session begins with gives the invariant, from which the rest goes through. -/
theorem legalSessionsGoThroughUnderWrap : Obligations.LegalSessionsGoThroughUnderWrap := by
  intro trs s hlegal hwrap
  obtain ⟨font, rest, rfl⟩ := exists_init_of_legal hlegal
  obtain ⟨t, hrun, hinv, -⟩ := runSession_goesOn rest (init_inv s font) hwrap
  exact ⟨t, hrun, hinv⟩

/-- Settles O21, by induction on the session up to the transaction that faults. -/
theorem aFaultEndsTheSession : Obligations.AFaultEndsTheSession := by
  intro trs more s f hfault
  induction trs generalizing s with
  | nil => cases hfault
  | cons tr trs ih =>
    rw [List.cons_append]
    cases htr : transact tr s with
    | next s' =>
      rw [runSession_cons_of_next htr] at hfault ⊢
      exact ih s' hfault
    | fault f' => simpa only [runSession, htr] using hfault
    | refused r => simp only [runSession, htr] at hfault; cases hfault

end

section
/-! SUPPORT. Proofs of the statements of single instructions without data accesses: the next state is `post`, its frame
`frame_post`, and what is left is the value that the instruction writes. -/

namespace Sys2Proof.Machine

/-! ### Control transfer (41_control.md) -/

theorem zextByte_toNat (b : Byte) : (zextByte b).toNat = b.toNat :=
  BitVec.toNat_setWidth_of_le (by decide)

/-- 0xFFF + 0xFF is a word, so `NNN + V0` is not reduced (R123). -/
theorem zextAddr_add_zextByte_toNat (a : Addr12) (b : Byte) :
    (zextAddr a + zextByte b).toNat = a.toNat + b.toNat := by
  rw [BitVec.toNat_add, zextAddr_toNat, zextByte_toNat]
  have := a.isLt
  have := b.isLt
  omega

/-- The slot that a pop takes, as a number (R125). -/
theorem popSlot_val (mode : StackUnderflow) (sp : Fin 16) :
    (popSlot mode sp).val = if sp.val ≠ 0 then sp.val - 1 else if mode = .wrapTo15 then 15 else 0 := by
  revert sp
  cases mode <;> decide

/-! ### Keys (46_keys_timers.md) -/

/-- The key test in natural numbers (R190). -/
theorem pressed_iff (km : Word) (v : Byte) :
    pressed km v = true ↔ v.toNat < 16 ∧ km.toNat / 2 ^ v.toNat % 2 = 1 := by
  rw [pressed, Bool.and_eq_true, decide_eq_true_eq, BitVec.getLsbD, Nat.testBit_eq_decide_div_mod_eq,
    decide_eq_true_eq]

/-- The key that `FX0A` takes is the lowest one of a nonempty mask (R194). -/
theorem lowestKey_spec {km : Word} (h : km ≠ 0) : ∃ k, k < 16 ∧ km.getLsbD k = true ∧
    (∀ j, j < k → km.getLsbD j = false) ∧ (lowestKey km).toNat = k := by
  cases hfind : (List.range 16).find? (fun k => km.getLsbD k) with
  | none =>
    refine absurd (BitVec.eq_of_getLsbD_eq fun j hj => ?_) h
    rw [Bool.eq_false_iff.mpr (List.find?_eq_none.mp hfind j (List.mem_range.mpr hj))]
    exact BitVec.getLsbD_zero.symm
  | some k =>
    obtain ⟨hset, hmem, hbelow⟩ := List.find?_range_eq_some.mp hfind
    have hk : k < 16 := List.mem_range.mp hmem
    refine ⟨k, hk, hset, fun j hj => by simpa using hbelow j hj, ?_⟩
    rw [lowestKey, hfind, Option.getD_some, BitVec.toNat_ofNat]
    exact Nat.mod_eq_of_lt (by omega)

/-- A skip and the query clear after it (R191 to R193). -/
theorem skipIf_queryClear_spec (s : State) (c : Bool) :
    (s.skipIf c).queryClear.KM = (if s.KP = .autoClear then 0 else s.KM) ∧
    Frame [] [.pc, .KM] s (s.skipIf c).queryClear ∧
    (s.skipIf c).queryClear.pc.toNat = (s.pc.toNat + if c then 2 else 0) % 65536 := by
  have hkept : (s.skipIf c).KP = s.KP ∧ (s.skipIf c).KM = s.KM := by rw [State.skipIf_eq]; exact ⟨rfl, rfl⟩
  rw [State.queryClear_eq, hkept.1, hkept.2]
  exact ⟨rfl, (frame_skipIf s c).trans (frame_setKM _ _), skipIf_pc_toNat s c⟩

end Sys2Proof.Machine

open Sys2Proof Sys2Proof.Machine

/-- Settles O23: the sum of a 12-bit address and a byte is a word. -/
theorem jumpOffsetAddsV0 : Obligations.JumpOffsetAddsV0 :=
  fun nnn s => ⟨_, exec_of_no_access rfl, zextAddr_add_zextByte_toNat nnn (s.reg 0), frame_post (.opBNNN nnn) s⟩

/-- Settles O24: a push sets the slot that `sp` names and steps `sp`; the jump follows. -/
theorem callPushesTheReturnAddress : Obligations.CallPushesTheReturnAddress := by
  intro nnn s
  refine ⟨_, exec_of_no_access rfl, zextAddr_toNat nnn, ?slot, fun k hk => ?others, ?sp, frame_post (.op2NNN nnn) s⟩
  case slot => simp [post]
  case others =>
    have hne : s.sp.val ≠ k.val := fun e => hk (Fin.ext e.symm)
    simp [post, hne]
  case sp => exact Fin.val_add s.sp 1

/-- Settles O25: the slot is `popSlot`. -/
theorem returnPopsTheStack : Obligations.ReturnPopsTheStack :=
  fun n s => ⟨_, popSlot s.params.stackUnderflow s.sp, exec_of_no_access rfl, popSlot_val _ _, rfl, rfl,
    frame_post (.op00EE n) s⟩

/-- Settles O29: both instructions are one `skipIf`, on the test `VX = VY` and on its negation. -/
theorem skipOnARegister : Obligations.SkipOnARegister := by
  intro x y n s
  refine ⟨⟨s.skipIf (s.reg x == s.reg y), rfl, frame_skipIf s _, ?skipsIfEqual⟩,
    ⟨s.skipIf (s.reg x != s.reg y), rfl, frame_skipIf s _, ?skipsIfNotEqual⟩⟩
  case skipsIfEqual => simp only [skipIf_pc_toNat, beq_iff_eq]
  case skipsIfNotEqual => simp only [skipIf_pc_toNat, bne_iff_ne, ne_eq, ite_not]

/-- Settles O31: each instruction is one `setReg` of the bitwise operation. -/
theorem logicBitByBit : Obligations.LogicBitByBit := by
  intro x y s
  refine ⟨⟨_, exec_of_no_access rfl, frame_post (.op8XY1 x y) s, fun k => ?or⟩,
    ⟨_, exec_of_no_access rfl, frame_post (.op8XY2 x y) s, fun k => ?and⟩,
    ⟨_, exec_of_no_access rfl, frame_post (.op8XY3 x y) s, fun k => ?xor⟩⟩
  case or => rw [post, State.reg_setReg_same, BitVec.getLsbD_or]
  case and => rw [post, State.reg_setReg_same, BitVec.getLsbD_and]
  case xor => rw [post, State.reg_setReg_same, BitVec.getLsbD_xor]

/-- Settles O35: the byte drawn is the host's where it named one, and the mask is an AND. -/
theorem randomByteIsMasked : Obligations.RandomByteIsMasked := by
  intro x nn s
  refine ⟨_, s.drawn, exec_of_no_access rfl, fun r' hr' => ?drawn, fun k => ?masked, frame_post (.opCXNN x nn) s⟩
  case drawn => rw [State.drawn, hr']
  case masked => rw [post, State.reg_setReg_same, BitVec.getLsbD_and]

/-- Settles O37: the wrapped sum and its overflow flag; the glyph's address. -/
theorem indexArithmetic : Obligations.IndexArithmetic := by
  intro x s
  refine ⟨⟨_, exec_of_no_access rfl, ofNat_wrapAddr_toNat _, ?flag, frame_post (.opFX1E x) s⟩,
    ⟨_, exec_of_no_access rfl, glyphAddr_toNat _, frame_post (.opFX29 x) s⟩⟩
  case flag =>
    rw [post, show (15 : Reg) = regF from rfl, State.reg_setReg_same, indexOverflow, flagOf_toNat, Bool.toNat,
      Bool.cond_decide]

/-- Settles O44: the skip on the key test or on its negation, and then the query clear. -/
theorem keySkips : Obligations.KeySkips := by
  intro x s
  obtain ⟨hKM, hframe, hpc⟩ := skipIf_queryClear_spec s (pressed s.KM (s.reg x))
  obtain ⟨hKM', hframe', hpc'⟩ := skipIf_queryClear_spec s (!pressed s.KM (s.reg x))
  refine ⟨⟨_, rfl, hKM, hframe, ?skipsIfPressed⟩, ⟨_, rfl, hKM', hframe', ?skipsIfNotPressed⟩⟩
  case skipsIfPressed => simp only [hpc, pressed_iff]
  case skipsIfNotPressed => simp only [hpc', Bool.not_eq_true', Bool.eq_false_iff, ne_eq, pressed_iff, ite_not]

/-- Settles O45: with no key `pc` steps back; else the lowest key is taken and the mask cleared. -/
theorem waitForKey : Obligations.WaitForKey := by
  intro x s
  refine ⟨fun hKM => ?waits, fun hKM => ?takes⟩
  case waits =>
    refine ⟨s.setPc (s.pc - 2), by simp only [exec, execFX0A, if_pos hKM], ?_, frame_setPc s _⟩
    rw [State.setPc_pc, BitVec.toNat_sub, Nat.add_comm]
    rfl
  case takes =>
    obtain ⟨k, hk, hset, hlowest, hval⟩ := lowestKey_spec hKM
    refine ⟨(s.setReg x (lowestKey s.KM)).setKM 0, k, by simp only [exec, execFX0A, if_neg hKM], hk, hset, hlowest, ?_,
      rfl, (frame_setReg s x _).trans (frame_setKM _ 0)⟩
    rw [State.reg_setKM, State.reg_setReg_same, hval]

/-- Settles O46: three copies between `VX` and a timer. -/
theorem timerTransfers : Obligations.TimerTransfers :=
  fun x s => ⟨⟨_, exec_of_no_access rfl, State.reg_setReg_same s x _, frame_post (.opFX07 x) s⟩,
    ⟨_, exec_of_no_access rfl, rfl, frame_post (.opFX15 x) s⟩,
    ⟨_, exec_of_no_access rfl, rfl, frame_post (.opFX18 x) s⟩⟩

end

section
/-! SUPPORT. Proofs of the statements of the stack (41_control.md): a call undone by its return, and the ring of 16. -/

namespace Sys2Proof.Machine

/-! ### Pushes -/

theorem pushAll_append (vs ws : List Word) (s : State) : pushAll (vs ++ ws) s = pushAll ws (pushAll vs s) := by
  induction vs generalizing s with
  | nil => rfl
  | cons v vs ih => exact ih (s.push v)

theorem pushAll_params (vs : List Word) (s : State) : (pushAll vs s).params = s.params := by
  induction vs generalizing s with
  | nil => rfl
  | cons v vs ih => exact ih (s.push v)

theorem pushAll_sp_val (vs : List Word) (s : State) : (pushAll vs s).sp.val = (s.sp.val + vs.length) % 16 := by
  induction vs generalizing s with
  | nil => exact (Nat.mod_eq_of_lt s.sp.isLt).symm
  | cons v vs ih =>
    have hsp : (s.push v).sp.val = (s.sp.val + 1) % 16 := Fin.val_add s.sp 1
    rw [pushAll, ih, hsp, List.length_cons]
    omega

/-- Fewer pushes than it takes to reach a slot leave it alone (R124). -/
theorem pushAll_stack_ahead (vs : List Word) (s : State) {d : Nat} (hvs : vs.length ≤ d) (hd : d < 16) {k : Fin 16}
    (hk : k.val = (s.sp.val + d) % 16) : (pushAll vs s).stack[k.val] = s.stack[k.val] := by
  induction vs generalizing s d with
  | nil => rfl
  | cons v vs ih =>
    rw [List.length_cons] at hvs
    have hsp : (s.push v).sp.val = (s.sp.val + 1) % 16 := Fin.val_add s.sp 1
    have hne : s.sp.val ≠ k.val := by omega
    rw [pushAll, ih (d := d - 1) (s.push v) (by omega) (by omega) (by omega), State.push_stack,
      Vector.getElem_set_ne _ _ hne]

/-! ### Pops -/

theorem popAll_stack (n : Nat) (s : State) : (popAll n s).2.stack = s.stack := by
  induction n generalizing s with
  | zero => rfl
  | succ n ih => exact ih s.popped

theorem popAll_params (n : Nat) (s : State) : (popAll n s).2.params = s.params := by
  induction n generalizing s with
  | zero => rfl
  | succ n ih => exact ih s.popped

/-- The last of `n + 1` pops is one pop after the first `n`. -/
theorem popAll_succ (n : Nat) (s : State) :
    (popAll (n + 1) s).1 = (popAll n s).1 ++ [(popAll n s).2.popValue] ∧
    (popAll (n + 1) s).2 = (popAll n s).2.popped := by
  induction n generalizing s with
  | zero => exact ⟨rfl, rfl⟩
  | succ n ih =>
    obtain ⟨hvalues, hstate⟩ := ih s.popped
    refine ⟨?_, hstate⟩
    rw [popAll, hvalues]
    rfl

/-- What a pop gives back depends on `sp`, the stack and STACK_UNDERFLOW only (R125). -/
theorem pop_of_pushed {s t : State} {a : Word} (h : s.params.stackUnderflow = .wrapTo15 ∨ s.sp ≠ 15)
    (hparams : t.params = s.params) (hsp : t.sp = s.sp + 1) (hslot : t.stack[s.sp.val] = a) :
    t.popValue = a ∧ t.popped.sp = s.sp := by
  have hpop : popSlot t.params.stackUnderflow t.sp = s.sp := by rw [hparams, hsp, popSlot_push h]
  refine ⟨?_, hpop⟩
  simp only [State.popValue, hpop, hslot]

/-! ### Pops after pushes (R126) -/

/-- As many pops as pushes return the pushed values in reverse order, as long as no push overwrites another and no pop
stands at the slot that HOLD_AT_0 keeps. -/
theorem popAll_pushAll (vs : List Word) (s : State) (hlen : vs.length ≤ 16)
    (h : s.params.stackUnderflow = .wrapTo15 ∨ s.sp.val + vs.length ≤ 15) :
    (popAll vs.length (pushAll vs s)).1 = vs.reverse ∧ (popAll vs.length (pushAll vs s)).2.sp = s.sp := by
  induction vs generalizing s with
  | nil => exact ⟨rfl, rfl⟩
  | cons v vs ih =>
    rw [List.length_cons] at hlen h
    have hpush : (s.push v).sp.val = (s.sp.val + 1) % 16 := Fin.val_add s.sp 1
    obtain ⟨hvalues, hsp⟩ := ih (s.push v) (by omega) (h.imp id fun _ => by omega)
    have hlast : s.params.stackUnderflow = .wrapTo15 ∨ s.sp ≠ 15 :=
      h.imp id fun hroom e => by rw [e] at hroom; exact absurd hroom (by simp)
    have hslot : (popAll vs.length (pushAll vs (s.push v))).2.stack[s.sp.val] = v := by
      simp only [popAll_stack]
      rw [pushAll_stack_ahead vs (s.push v) (d := 15) (by omega) (by decide) (k := s.sp) (by omega)]
      simp
    obtain ⟨hvalue, hback⟩ := pop_of_pushed (a := v) hlast
      ((popAll_params vs.length _).trans (pushAll_params vs (s.push v))) hsp hslot
    obtain ⟨hfst, hsnd⟩ := popAll_succ vs.length (pushAll vs (s.push v))
    rw [pushAll, List.length_cons, hfst, hsnd, hvalues, hvalue, hback, List.reverse_cons]
    exact ⟨rfl, rfl⟩

/-- The seventeenth push is at the slot of the first. -/
theorem pushAll_seventeenth (vs : List Word) (w : Word) (s : State) (hlen : vs.length = 16) :
    (pushAll (vs ++ [w]) s).stack[s.sp.val] = w := by
  have hsp : (pushAll vs s).sp = s.sp := Fin.ext (by rw [pushAll_sp_val, hlen]; omega)
  rw [pushAll_append]
  simp [pushAll, hsp]

end Sys2Proof.Machine

open Sys2Proof Sys2Proof.Machine

/-- Settles O26: the state that the return meets has the call's `sp`, stack and parameters, which is all that a pop
reads. -/
theorem callThenReturnComesBack : Obligations.CallThenReturnComesBack := by
  intro nnn n s t t' hroom hcall hsp hstack hparams
  obtain rfl := exec_next hcall
  have hlast : s.params.stackUnderflow = .wrapTo15 ∨ s.sp ≠ 15 :=
    hroom.imp id fun hne e => hne (congrArg Fin.val e)
  have hslot : t'.stack[s.sp.val] = s.pc := by simp [hstack, post]
  obtain ⟨hvalue, hback⟩ := pop_of_pushed hlast hparams hsp hslot
  exact ⟨_, exec_of_no_access rfl, hvalue, hback⟩

/-- Settles O27: `popAll_pushAll` in both cases of STACK_UNDERFLOW, and the ring closes after sixteen pushes. -/
theorem stackIsARingOfSixteen : Obligations.StackIsARingOfSixteen := by
  refine ⟨fun vs s hcase => ?pops, pushAll_seventeenth⟩
  rcases hcase with ⟨hwrap, hlen⟩ | ⟨-, hsp, hlen⟩
  · exact popAll_pushAll vs s hlen (.inl hwrap)
  · refine popAll_pushAll vs s (by omega) (.inr ?_)
    rw [hsp]
    simpa using hlen

end

section
/-! SUPPORT. Proofs of the statements of the memory transfers (44_index_memory.md): the accesses run from `I` on, so
they are all in range or the first one out of range is at `max I 4096`. -/

namespace Sys2Proof.Machine

/-! ### Consecutive accesses (R51, R211) -/

theorem firstOutOfRange_consecutive_eq_none {mode : AddrOob} {i n : Nat} (h : mode = .wrap ∨ i + n < 4096) :
    firstOutOfRange mode ((List.range (n + 1)).map (i + ·)) = none := by
  refine firstOutOfRange_eq_none.mpr (h.imp id fun hlt a ha => ?_)
  obtain ⟨k, hk, rfl⟩ := List.mem_map.mp ha
  have := List.mem_range.mp hk
  simp only [Config.memSize]
  omega

/-- Of consecutive accesses that do not all lie in the array, the first one out of range is at the array's end, or the
very first. -/
theorem firstOutOfRange_consecutive_eq_some {i n : Nat} (h : 4096 ≤ i + n) :
    firstOutOfRange .fault ((List.range (n + 1)).map (i + ·)) = some (max i 4096) := by
  have hfind : (List.range (n + 1)).find? ((fun a => decide (Config.memSize ≤ a)) ∘ (i + ·)) = some (4096 - i) := by
    refine List.find?_range_eq_some.mpr ⟨?_, List.mem_range.mpr (by omega), fun j hj => ?_⟩
    · simp only [Function.comp_apply, Config.memSize, decide_eq_true_eq]
      omega
    · simp only [Function.comp_apply, Config.memSize, Bool.not_eq_true', decide_eq_false_iff_not]
      omega
  rw [firstOutOfRange, List.find?_map, hfind, Option.map_some]
  congr 1
  omega

/-- An instruction whose accesses are consecutive from `I` on goes on to `post` where they are in range. -/
theorem exec_of_consecutive {i : Instr} {s : State} {n : Nat}
    (haccesses : dataAccesses i s = (List.range (n + 1)).map (s.I.toNat + ·))
    (h : s.params.addrOob = .wrap ∨ s.I.toNat + n < 4096) : exec i s = .next (post i s) := by
  rw [exec_eq, haccesses, firstOutOfRange_consecutive_eq_none h]

/-- And under FAULT it faults where they are not, with its own address. -/
theorem exec_of_consecutive_fault {i : Instr} {s : State} {n : Nat}
    (haccesses : dataAccesses i s = (List.range (n + 1)).map (s.I.toNat + ·))
    (hmode : s.params.addrOob = .fault) (h : 4096 ≤ s.I.toNat + n) :
    exec i s = .fault (.addressOutOfRange (max s.I.toNat 4096) (s.pc - 2)) := by
  rw [exec_eq, haccesses, hmode, firstOutOfRange_consecutive_eq_some h]
  rfl

/-- An instruction that went on made no access out of range. -/
theorem accesses_of_exec_next {i : Instr} {s t : State} (h : exec i s = .next t) :
    firstOutOfRange s.params.addrOob (dataAccesses i s) = none := by
  rw [exec_eq] at h
  cases hout : firstOutOfRange s.params.addrOob (dataAccesses i s) with
  | none => rfl
  | some a => rw [hout] at h; cases h

/-! ### The digits (R173) -/

theorem nodup_wrapStores_digitStores (base : Nat) (v : Byte) :
    ((wrapStores (digitStores base v)).map (·.1)).Nodup := by
  simp only [wrapStores, digitStores, List.map_cons, List.map_nil, List.nodup_cons, List.mem_cons, List.not_mem_nil,
    or_false, not_or, not_false_eq_true, List.nodup_nil, and_true, wrapAddr, Config.memSize]
  omega

/-- The bytes at the three addresses after `FX33` are the digits of `VX`. -/
theorem read_digitStores {m : Memory} (hm : m.wf) (base : Nat) (v : Byte) :
    ((m.writeAll (wrapStores (digitStores base v))).read (wrapAddr base)).toNat = v.toNat / 100 ∧
    ((m.writeAll (wrapStores (digitStores base v))).read (wrapAddr (base + 1))).toNat = v.toNat / 10 % 10 ∧
    ((m.writeAll (wrapStores (digitStores base v))).read (wrapAddr (base + 2))).toNat = v.toNat % 10 := by
  have hread {a : Nat} {d : Byte} (hmem : (a, d) ∈ digitStores base v) :
      (m.writeAll (wrapStores (digitStores base v))).read (wrapAddr a) = d :=
    Memory.read_writeAll_of_mem hm (wrapStores_lt _) (nodup_wrapStores_digitStores base v)
      (List.mem_map_of_mem hmem)
  have := v.isLt
  rw [hread (List.mem_cons_self ..), hread (List.mem_cons_of_mem _ (List.mem_cons_self ..)),
    hread (List.mem_cons_of_mem _ (List.mem_cons_of_mem _ (List.mem_cons_self ..)))]
  simp only [BitVec.toNat_ofNat]
  omega

/-- A register that `FX65` loads (R175). -/
theorem reg_post_opFX65 (s : State) {x k : Reg} (hk : k.val ≤ x.val) :
    (post (.opFX65 x) s).reg k = s.mem.read (wrapAddr (s.I.toNat + k.val)) := by
  rw [post, reg_registerFills, if_pos hk]

end Sys2Proof.Machine

open Sys2Proof Sys2Proof.Machine

/-- Settles O38: three consecutive accesses, whose bytes are `read_digitStores`. -/
theorem decimalDigitsAreStored : Obligations.DecimalDigitsAreStored := by
  refine ⟨fun x s hwf hrange => ?stores, fun x s hmode hout => exec_of_consecutive_fault (n := 2) rfl hmode hout⟩
  case stores =>
    have hnext : exec (.opFX33 x) s = .next (post (.opFX33 x) s) :=
      exec_of_consecutive (n := 2) rfl (hrange.imp id fun hlt => hlt _ (by simp))
    obtain ⟨hhundreds, htens, hones⟩ := read_digitStores hwf s.I.toNat (s.reg x)
    exact ⟨_, hnext, hhundreds, htens, hones, fun a ha => read_digitStores_other hwf _ ha, frame_post (.opFX33 x) s⟩

/-- Settles O39: consecutive accesses, whose bytes are `read_registerStores`. -/
theorem registersAreStored : Obligations.RegistersAreStored := by
  refine ⟨fun x s hwf hrange => ?stores, fun x s hmode hout => exec_of_consecutive_fault rfl hmode hout⟩
  case stores =>
    obtain ⟨hstored, hothers⟩ := read_registerStores hwf x
    exact ⟨_, exec_of_consecutive rfl hrange, hstored, hothers, frame_post (.opFX55 x) s⟩

/-- Settles O40: consecutive accesses, whose registers are `reg_registerFills`; after a store of the same registers from
the same `I` those are the bytes that it left. -/
theorem registersAreLoaded : Obligations.RegistersAreLoaded := by
  refine ⟨fun x s hrange => ?loads, fun x s hmode hout => exec_of_consecutive_fault rfl hmode hout,
    fun x s t t' hwf hstore hmem hI hparams => ?back⟩
  case loads => exact ⟨_, exec_of_consecutive rfl hrange, fun _ => reg_post_opFX65 s, frame_post (.opFX65 x) s⟩
  case back =>
    have hrange := accesses_of_exec_next hstore
    have haccesses : dataAccesses (.opFX65 x) t' = dataAccesses (.opFX55 x) s := by simp only [dataAccesses, hI]
    have hload : exec (.opFX65 x) t' = .next (post (.opFX65 x) t') := by rw [exec_eq, haccesses, hparams, hrange]
    refine ⟨_, hload, (State.setRegs_I _ _).trans hI, fun k hk => ?_⟩
    rw [reg_post_opFX65 t' hk, hmem, hI, exec_next hstore]
    exact (read_registerStores hwf x).1 k hk

end

section
/-! SUPPORT. Proofs of the statements of the sprite draw (45_display.md): one XOR of the drawn pixels, and two. -/

namespace Sys2Proof.Machine

/-- The drawn pixels are those that the statements name: a sprite has at most 15 rows, so none is cut (R182, R184,
R185). -/
theorem litSprite_iff (s : State) (x0 y0 : Nat) (n : Nibble) (x : Fin 64) (y : Fin 32) :
    litSprite s x0 y0 n.toNat x y = true ↔ SpritePixel s x0 y0 n.toNat x y := by
  have hrows : min n.toNat 16 = n.toNat := Nat.min_eq_left (Nat.le_of_lt n.isLt)
  simp only [litSprite, hrows, litRows, Nat.add_zero, Bool.and_eq_true, decide_eq_true_eq, and_assoc]
  rfl

/-- The drawn pixels depend on memory and on `I` only (R182). -/
theorem litSprite_congr {s t : State} (hmem : t.mem = s.mem) (hI : t.I = s.I) : litSprite t = litSprite s := by
  funext x0 y0 n
  rw [litSprite, litSprite]
  congr 1
  funext r
  rw [spriteRow, spriteRow, hmem, hI]

theorem flagOf_eq_one_iff (b : Bool) : flagOf b = 1 ↔ b = true := by
  cases b <;> decide

theorem flagOf_eq_zero_iff (b : Bool) : flagOf b = 0 ↔ b = false := by
  cases b <;> decide

/-- A pixel after `DXYN` (R182). -/
theorem pixel_post_opDXYN (x y : Reg) (n : Nibble) (s : State) (px : Fin 64) (py : Fin 32) :
    (post (.opDXYN x y n) s).fb.pixel px py =
      (s.fb.pixel px py ^^ litSprite s (s.reg x).toNat (s.reg y).toNat n.toNat px py) :=
  drawSprite_pixel ..

/-- `VF` after `DXYN` is the collision flag, whatever `X` and `Y` are (R21, R182). -/
theorem flag_post_opDXYN (x y : Reg) (n : Nibble) (s : State) :
    (post (.opDXYN x y n) s).reg 15 = flagOf (drawSprite s (s.reg x).toNat (s.reg y).toNat n.toNat).2 :=
  State.reg_setReg_same ..

/-- The flag is 1 exactly when a drawn pixel was lit before (R183). -/
theorem flag_post_opDXYN_eq_one_iff (x y : Reg) (n : Nibble) (s : State) :
    (post (.opDXYN x y n) s).reg 15 = 1 ↔ ∃ px py,
      litSprite s (s.reg x).toNat (s.reg y).toNat n.toNat px py = true ∧ s.fb.pixel px py = true := by
  rw [flag_post_opDXYN, flagOf_eq_one_iff, drawSprite_collision]

/-- With the flag at 0 no drawn pixel was lit before. -/
theorem not_lit_of_flag_eq_zero {x y : Reg} {n : Nibble} {s : State} (h : (post (.opDXYN x y n) s).reg 15 = 0)
    {px : Fin 64} {py : Fin 32} (hlit : litSprite s (s.reg x).toNat (s.reg y).toNat n.toNat px py = true) :
    s.fb.pixel px py = false := by
  by_contra hset
  have hone := (flag_post_opDXYN_eq_one_iff x y n s).mpr ⟨px, py, hlit, by simpa using hset⟩
  rw [h] at hone
  exact absurd hone (by decide)

end Sys2Proof.Machine

open Sys2Proof Sys2Proof.Machine

/-- Settles O42: the draw XORs `litSprite`, which is `SpritePixel`, and the flag tells of a drawn pixel that was lit. -/
theorem drawXorsTheSprite : Obligations.DrawXorsTheSprite := by
  intro x y n s
  refine ⟨_, exec_of_no_access rfl, fun px py => ?pixels, ?isFlag, ?collision, rfl, frame_post (.opDXYN x y n) s⟩
  case pixels =>
    rw [pixel_post_opDXYN, ← litSprite_iff]
    cases s.fb.pixel px py <;> cases litSprite s (s.reg x).toNat (s.reg y).toNat n.toNat px py <;> decide
  case isFlag =>
    rw [flag_post_opDXYN, flagOf_eq_zero_iff, flagOf_eq_one_iff]
    exact Bool.eq_false_or_eq_true _ |>.symm
  case collision => simp only [flag_post_opDXYN_eq_one_iff, litSprite_iff]

/-- Settles O43: the second draw XORs the same pixels, so that each is back; where the first met no lit one, the pixels
that the second meets lit are exactly the drawn ones. -/
theorem drawingTwiceErases : Obligations.DrawingTwiceErases := by
  intro x y n s t t' u hfirst hfb hmem hI hx hy hsecond
  obtain rfl := exec_next hfirst
  obtain rfl := exec_next hsecond
  have hlit : litSprite t' (t'.reg x).toNat (t'.reg y).toNat n.toNat =
      litSprite s (s.reg x).toNat (s.reg y).toNat n.toNat := by rw [litSprite_congr hmem hI, hx, hy]
  refine ⟨Framebuffer.ext_pixel fun px py => ?back, fun hclear => ?collides⟩
  case back =>
    rw [pixel_post_opDXYN, hlit, hfb, pixel_post_opDXYN, Bool.xor_assoc, Bool.xor_self, Bool.xor_false]
  case collides =>
    simp only [flag_post_opDXYN_eq_one_iff, hlit, hfb, pixel_post_opDXYN, ← litSprite_iff]
    refine exists_congr fun px => exists_congr fun py => and_iff_left_of_imp fun hdrawn => ?_
    rw [hdrawn, not_lit_of_flag_eq_zero hclear hdrawn]
    rfl

end

section
/-! SUPPORT. Proofs of the statements of the timers and of the wait for a key in whole cycles (40_cycle.md,
46_keys_timers.md). -/

namespace Sys2Proof.Machine

/-- A fetched instruction without data accesses is executed and the cycle ends (R101). -/
theorem step_of_fetched {s : State} {i : Instr} (hi : i.wellFormed = true) (hfetch : fetch s = .ok (encode i))
    (haccesses : dataAccesses i (beginCycle s) = []) : step s = .next (endCycle (post i (beginCycle s))) := by
  simp only [step_of_fetch hfetch, decodeWord_encode hi, exec_of_no_access haccesses]

/-- The fetch reads `pc`, memory and the parameters only (R53). -/
theorem fetch_congr {s t : State} (hpc : t.pc = s.pc) (hmem : t.mem = s.mem) (hparams : t.params = s.params) :
    fetch t = fetch s := by
  rw [fetch_eq, fetch_eq, hpc, hmem, hparams]

/-! ### The wait for a key (R194) -/

/-- A cycle of `FX0A` with an empty mask: the step back undoes the advance of `pc`, and the tick remains. -/
theorem step_waiting {x : Reg} {s : State} (hKM : s.KM = 0) (hfetch : fetch s = .ok (encode (.opFX0A x))) :
    step s = .next (endCycle { s with events := [] }) := by
  have hpost : post (.opFX0A x) (beginCycle s) = { s with events := [] } := by
    rw [post, if_pos (show (beginCycle s).KM = 0 from hKM), beginCycle_pc, BitVec.add_sub_cancel]
    rfl
  rw [step_of_fetched rfl hfetch rfl, hpost]

/-- `t` is `s` after some cycles of waiting: only the timers and the model's own fields may differ. -/
def WaitedFrom (s t : State) : Prop :=
  t = { s with DT := t.DT, ST := t.ST, rnd := t.rnd, events := t.events }

theorem waitedFrom_refl (s : State) : WaitedFrom s s := rfl

theorem WaitedFrom.trans {s t u : State} (hst : WaitedFrom s t) (htu : WaitedFrom t u) : WaitedFrom s u := by
  rw [WaitedFrom] at *
  rw [htu, hst]

theorem waitedFrom_endCycle (s : State) : WaitedFrom s (endCycle { s with events := [] }) := by
  rw [WaitedFrom, endCycle_eq]

theorem WaitedFrom.mem {s t : State} (h : WaitedFrom s t) : t.mem = s.mem := by rw [h]

theorem WaitedFrom.params {s t : State} (h : WaitedFrom s t) : t.params = s.params := by rw [h]

/-- What has only waited differs in the timers, the events and the step's random byte. -/
theorem WaitedFrom.frame {s t : State} (h : WaitedFrom s t) : Frame [] [.DT, .ST, .events, .params] s t := by
  rw [h]
  refine ⟨fun r _ => rfl, fun p hp => ?_⟩
  cases p
  case DT | ST | events | params => simp at hp
  all_goals simp [Part.kept]

/-- Any number of cycles with an empty mask, by induction on it: `FX0A` is fetched again, and the timers run down. -/
theorem run_waiting (k : Nat) {x : Reg} {s : State} (hKM : s.KM = 0) (hfetch : fetch s = .ok (encode (.opFX0A x))) :
    ∃ t, Sys2Proof.core.run k s = .next t ∧ t.DT.toNat = s.DT.toNat - k ∧ t.ST.toNat = s.ST.toNat - k ∧
      WaitedFrom s t := by
  induction k generalizing s with
  | zero => exact ⟨s, rfl, rfl, rfl, waitedFrom_refl s⟩
  | succ k ih =>
    have hwaited := waitedFrom_endCycle s
    have hfetch' : fetch (endCycle { s with events := [] }) = fetch s :=
      fetch_congr (endCycle_pc _) (endCycle_mem _) (endCycle_params _)
    obtain ⟨t, hrun, hDT, hST, hwaited'⟩ :=
      ih (s := endCycle { s with events := [] }) ((endCycle_KM _).trans hKM) (hfetch'.trans hfetch)
    refine ⟨t, ?run, ?DT, ?ST, hwaited.trans hwaited'⟩
    case run =>
      have hstep : Sys2Proof.core.step s = .next (endCycle { s with events := [] }) := step_waiting hKM hfetch
      simp only [Host.Core.run, hstep]
      exact hrun
    case DT => rw [hDT, endCycle_DT_toNat, Nat.sub_sub, Nat.add_comm]
    case ST => rw [hST, endCycle_ST_toNat, Nat.sub_sub, Nat.add_comm]

end Sys2Proof.Machine

open Sys2Proof Sys2Proof.Machine

/-- Settles O47: the tick of `endCycle` comes after execute, and it is the tick that emits BEEP. -/
theorem loadedTimerTicksInTheSameCycle : Obligations.LoadedTimerTicksInTheSameCycle := by
  intro x s
  refine ⟨fun hfetch => ⟨_, step_of_fetched rfl hfetch rfl, endCycle_DT_toNat _⟩,
    fun hfetch => ⟨_, step_of_fetched rfl hfetch rfl, endCycle_ST_toNat _, ?beep⟩⟩
  case beep =>
    have hST : (post (.opFX18 x) (beginCycle s)).ST = s.reg x := rfl
    have hevents : (post (.opFX18 x) (beginCycle s)).events = [] := rfl
    rw [endCycle_events, hST, hevents]
    split
    case isTrue hx => exact iff_of_true (by simp) hx
    case isFalse hx => exact iff_of_false (by simp) hx

/-- Settles O48: `run_waiting`, whose end state differs from the first in the timers and the model's own fields only. -/
theorem keyWaitHoldsThePc : Obligations.KeyWaitHoldsThePc := by
  intro k x s hKM hfetch
  obtain ⟨t, hrun, hDT, hST, hwaited⟩ := run_waiting k hKM hfetch
  have hframe := hwaited.frame
  refine ⟨t, hrun, hframe.2 .pc (by decide), (hframe.2 .KM (by decide)).trans hKM, fun r => hframe.1 r (by simp),
    hwaited.mem, hDT, hST, hwaited.params, hframe⟩

end

section
/-! SUPPORT. Proofs of the statements of noninterference: what `ST` and the step's random byte reach. -/

namespace Sys2Proof.Machine

/-- A step that went on made no access out of range, and is the cycle's parts in order. -/
theorem step_eq_next_iff {s t : State} : step s = .next t ↔
    firstOutOfRange s.params.addrOob (cycleAccesses s) = none ∧
      endCycle (post (decodeWord (wordAtPc s)) (beginCycle s)) = t := by
  rw [step_eq_of_cycleAccesses]
  cases firstOutOfRange s.params.addrOob (cycleAccesses s) <;> simp

/-! ### The sound timer (R198) -/

theorem setRegs_setST (s : State) (b : Byte) (l : List (Reg × Byte)) :
    (s.setST b).setRegs l = (s.setRegs l).setST b := by
  induction l generalizing s with
  | nil => rfl
  | cons p l ih => exact ih (s.setReg p.1 p.2)

theorem dataAccesses_setST (i : Instr) (s : State) (b : Byte) : dataAccesses i (s.setST b) = dataAccesses i s := by
  cases i <;> rfl

theorem cycleAccesses_setST (s : State) (b : Byte) : cycleAccesses (s.setST b) = cycleAccesses s :=
  congrArg ([s.pc.toNat, s.pc.toNat + 1] ++ ·) (dataAccesses_setST _ s b)

/-- Execute from another `ST` does the same and ends with another `ST`, or with the one that `FX18` loads. -/
theorem post_setST (i : Instr) (s : State) (b : Byte) : ∃ c, post i (s.setST b) = (post i s).setST c := by
  cases i
  case opFX18 x => exact ⟨s.reg x, rfl⟩
  case opFX0A x =>
    refine ⟨b, ?_⟩
    rw [post, post, State.setST_KM]
    split <;> rfl
  case opFX65 x => exact ⟨b, setRegs_setST s b _⟩
  all_goals exact ⟨b, rfl⟩

/-- The end of a cycle with another `ST` differs in `ST` and in BEEP only. -/
theorem endCycle_setST (u : State) (c : Byte) :
    endCycle (u.setST c) =
        { endCycle u with ST := (endCycle (u.setST c)).ST, events := (endCycle (u.setST c)).events } ∧
      (endCycle (u.setST c)).events.filter (· ≠ .beep) = (endCycle u).events.filter (· ≠ .beep) := by
  refine ⟨by simp only [endCycle_eq]; rfl, ?_⟩
  have hbeep (d : Byte) : (if d = 1 then [Event.beep] else []).filter (· ≠ .beep) = [] := by split <;> rfl
  simp only [endCycle_events, List.filter_append, hbeep, State.setST_events]

/-! ### The random byte (R218) -/

/-- The state of `step(r)` before its cycle, or of a step for which the host named no byte. -/
def State.setRnd (s : State) (q : Option Byte) : State := { s with rnd := q }

theorem setRegs_setRnd (s : State) (q : Option Byte) (l : List (Reg × Byte)) :
    (s.setRnd q).setRegs l = (s.setRegs l).setRnd q := by
  induction l generalizing s with
  | nil => rfl
  | cons p l ih => exact ih (s.setReg p.1 p.2)

theorem dataAccesses_setRnd (i : Instr) (s : State) (q : Option Byte) :
    dataAccesses i (s.setRnd q) = dataAccesses i s := by
  cases i <;> rfl

theorem cycleAccesses_setRnd (s : State) (q : Option Byte) : cycleAccesses (s.setRnd q) = cycleAccesses s :=
  congrArg ([s.pc.toNat, s.pc.toNat + 1] ++ ·) (dataAccesses_setRnd _ s q)

/-- Every instruction but `CXNN` passes the step's random byte on unread (R152). -/
theorem post_setRnd {i : Instr} (hi : i.mnemonic ≠ "CXNN") (s : State) (q : Option Byte) :
    post i (s.setRnd q) = (post i s).setRnd q := by
  cases i
  case opCXNN => exact absurd rfl hi
  case opFX0A x =>
    rw [post, post, show (s.setRnd q).KM = s.KM from rfl]
    split <;> rfl
  case opFX65 x => exact setRegs_setRnd s q _
  all_goals rfl

/-- The end of the cycle clears the random byte. -/
theorem endCycle_setRnd (u : State) (q : Option Byte) : endCycle (u.setRnd q) = endCycle u := by
  simp only [endCycle_eq]
  rfl

theorem wordAtPc_of_fetch {s : State} {w : Word} (h : fetch s = .ok w) : wordAtPc s = w := by
  rw [fetch_eq] at h
  cases hout : firstOutOfRange s.params.addrOob [s.pc.toNat, s.pc.toNat + 1] with
  | none => rw [hout] at h; exact Except.ok.inj h
  | some a => rw [hout] at h; cases h

/-- A step under any word but `CXNN` is the same whatever the random byte. -/
theorem step_setRnd {s : State} {w : Word} (hfetch : fetch s = .ok w) (hw : (decodeWord w).mnemonic ≠ "CXNN")
    (q : Option Byte) : step (s.setRnd q) = step s := by
  have hword : wordAtPc (s.setRnd q) = w := wordAtPc_of_fetch hfetch
  have hpost : endCycle (post (decodeWord w) (beginCycle (s.setRnd q))) =
      endCycle (post (decodeWord w) (beginCycle s)) := by
    rw [show beginCycle (s.setRnd q) = (beginCycle s).setRnd q from rfl, post_setRnd hw, endCycle_setRnd]
  rw [step_eq_of_cycleAccesses, step_eq_of_cycleAccesses, cycleAccesses_setRnd, hword, wordAtPc_of_fetch hfetch, hpost]
  rfl

end Sys2Proof.Machine

open Sys2Proof Sys2Proof.Machine

/-- Settles O57: the accesses and the word are the same, execute passes `ST` on, and the tick reads it for BEEP only. -/
theorem theSoundTimerIsNeverRead : Obligations.TheSoundTimerIsNeverRead := by
  intro s t b hstep
  obtain ⟨hrange, rfl⟩ := step_eq_next_iff.mp hstep
  obtain ⟨c, hpost⟩ := post_setST (decodeWord (wordAtPc s)) (beginCycle s) b
  obtain ⟨hstate, hevents⟩ := endCycle_setST (post (decodeWord (wordAtPc s)) (beginCycle s)) c
  have hstep' : step (s.setST b) = .next (endCycle ((post (decodeWord (wordAtPc s)) (beginCycle s)).setST c)) :=
    step_eq_next_iff.mpr ⟨(congrArg _ (cycleAccesses_setST s b)).trans hrange, congrArg endCycle hpost⟩
  exact ⟨_, hstep', hstate, hevents⟩

/-- Settles O58: with any byte the step is that of the state as it stands. -/
theorem theRandomByteReachesOnlyCXNN : Obligations.TheRandomByteReachesOnlyCXNN := by
  intro s w r r' hfetch hw
  exact (step_setRnd hfetch hw (some r)).trans (step_setRnd hfetch hw (some r')).symm

end
